-- ==== Sys2Proof/Word.lean ====
section
/-! DEFINITION. The words of the block: bytes, addresses, colour indices, samples, and the small data types
that the operands of an instruction are made of (spec 00_scope.md R9, R12; 30_encoding.md R66). -/

namespace Sys2Proof

/-- One byte of `M`, of a register or of a record (R9). -/
abbrev Byte := BitVec 8

/-- An address of `M` or of the register bus: 16 bits (R47, `ADDR_BITS`). -/
abbrev Addr := BitVec 16

/-- A colour index, a 2-bit natural 0..3 (R12). -/
abbrev Colour := BitVec 2

/-- A sample, a 4-bit natural 0..15; 0 is silence (R12). -/
abbrev Sample := BitVec 4

/-- Eight colour lanes; lane 0 is the leftmost pixel and the first pushed (R66, R91). -/
structure Lanes where
  c0 : Colour
  c1 : Colour
  c2 : Colour
  c3 : Colour
  c4 : Colour
  c5 : Colour
  c6 : Colour
  c7 : Colour
deriving DecidableEq, Repr

/-- The lanes in push order. -/
def Lanes.toList (l : Lanes) : List Colour := [l.c0, l.c1, l.c2, l.c3, l.c4, l.c5, l.c6, l.c7]

/-- Colour 0 in all 8 lanes (R31 bit 0, R104). -/
def Lanes.zero : Lanes := ⟨0, 0, 0, 0, 0, 0, 0, 0⟩

/-- What the register bus does at the register an address selects: REG_READ reads it, REG_WRITE writes a byte
to it (R137, R138). -/
inductive BusAccess where
  | read
  | write (d : Byte)
deriving DecidableEq, Repr

/-- The nine fetcher states (R21, R68). -/
inductive FetchState where
  | readTileId
  | readTileData0
  | readTileData1
  | pushToFifo
  | readSpriteId
  | readSpriteFlags
  | readSpriteData0
  | readSpriteData1
  | mixInFifo
deriving DecidableEq, Repr

/-- The four controller modes (R22, R69). -/
inductive Mode where
  | lineBlank
  | frameBlank
  | search
  | transfer
deriving DecidableEq, Repr

/-- The registers the register bus reaches (R82, R138). -/
inductive RegName where
  | lcdc
  | ly
  | lyc
  | nr30
  | nr31
  | nr32
  | nr33
  | nr34
  | wave (k : BitVec 4)
deriving DecidableEq, Repr

end Sys2Proof
end

