-- ==== Sys2Proof/Config.lean ====
section
/-! DEFINITION. The parameters of R7: the fixed ones as numbers, the OPEN ones as the record `Config` that a state
carries (log 4), and the free values the spec calls draws (R13, log 5). The defaults and the constraints of R8 stand in
Decode.lean. -/

namespace Sys2Proof

/-- The OPEN parameters of R7 and the register addresses of R82. -/
structure Config where
  ppuClockFactor : Nat
  audioClockFactor : Nat
  masterRate : Nat
  lineSteps : Nat
  maxSprites : Nat
  restartReloadsSample : Bool
  mapBase0 : Addr
  mapBase1 : Addr
  tileBaseUnsigned : Addr
  tileBaseSigned : Addr
  spriteTileBase : Addr
  oamBase : Addr
  lcdcAddr : Addr
  lyAddr : Addr
  lycAddr : Addr
  nr30Addr : Addr
  nr31Addr : Addr
  nr32Addr : Addr
  nr33Addr : Addr
  nr34Addr : Addr
  waveBase : Addr
deriving DecidableEq, Repr

/-- `QUEUE_CAPACITY` (R7). -/
abbrev Config.queueCapacity : Nat := 16
/-- `QUEUE_LOW` (R7). -/
abbrev Config.queueLow : Nat := 8
/-- `PUSH_BATCH` (R7). -/
abbrev Config.pushBatch : Nat := 8
/-- `SEARCH_STEPS` (R7). -/
abbrev Config.searchSteps : Nat := 40
/-- `OAM_ENTRIES` (R7). -/
abbrev Config.oamEntries : Nat := 40
/-- `OAM_ENTRY_BYTES` (R7). -/
abbrev Config.oamEntryBytes : Nat := 4
/-- `SCREEN_WIDTH` (R7). -/
abbrev Config.screenWidth : Nat := 160
/-- `VISIBLE_LINES` (R7). -/
abbrev Config.visibleLines : Nat := 144
/-- `TOTAL_LINES` (R7). -/
abbrev Config.totalLines : Nat := 154
/-- `TILE_MAP_WIDTH` (R7). -/
abbrev Config.tileMapWidth : Nat := 32
/-- `TILE_ROWS` (R7). -/
abbrev Config.tileRows : Nat := 8
/-- `TILE_BYTES` (R7). -/
abbrev Config.tileBytes : Nat := 16
/-- `WAVE_SAMPLES` (R7). -/
abbrev Config.waveSamples : Nat := 32
/-- `WAVE_BYTES` (R7). -/
abbrev Config.waveBytes : Nat := 16
/-- `FETCH_CLOCK_FACTOR` (R7, D4). -/
abbrev Config.fetchClockFactor : Nat := 2

/-- The n-th draw of a run: a value the model does not fix (R13). It has no body, so every proof holds for every
value of it. `State.draws` counts how many a run has used (log 5). -/
opaque Config.draw : Nat → Byte

/-- The draw for the byte of `M` at an address, one per byte at the start of the run, when the host supplies no launch
contents (R13, R164). It has no body, so every proof holds for every launch contents (log 7). -/
opaque Config.launchDraw : Nat → Byte

end Sys2Proof
end

