-- ==== Sys2Proof/Syntax.lean ====
section
/-! DEFINITION. The instructions: one constructor per row of spec/opcode_table.json (R2, R65, R68, R69, R82).
The block has no instruction set of its own; its operations and the steps of its state machines are its
instructions. -/

namespace Sys2Proof

/-- One constructor per row of the opcode table. -/
inductive Instr where
  -- format OP8: the operations a host presents (R65, R66)
  | reset
  | ppuTick
  | waveTick
  | regWrite (a : Addr) (d : Byte)
  | regRead (a : Addr)
  | memWrite (a : Addr) (d : Byte)
  | fStart (mapAddr dataAddr : Addr) (tileOffset : BitVec 5) (tileLine : BitVec 3) (signedId : Bool)
  | fFetchSprite (oam : BitVec 6) (x : Byte) (spriteOffset spriteLine : BitVec 3)
  | fTick
  | qClear
  | qPush8 (c : Lanes)
  | qPop
  | qMix (offset : BitVec 4) (pixel : Colour) (behind : Bool)
  | qSize
  -- format FST4: the fetch steps, selected by `f.state` (R68)
  | readTileId
  | readTileData0
  | readTileData1
  | pushToFifo
  | readSpriteId
  | readSpriteFlags
  | readSpriteData0
  | readSpriteData1
  | mixInFifo
  -- format MODE2: the mode steps of the controller, selected by `ppu.mode` (R69)
  | lineBlank
  | frameBlank
  | search
  | transfer
  -- format REG16: the accesses to the block's registers, selected by the address (R82)
  | lcdc (acc : BusAccess)
  | ly (acc : BusAccess)
  | lyc (acc : BusAccess)
  | nr30 (acc : BusAccess)
  | nr31 (acc : BusAccess)
  | nr32 (acc : BusAccess)
  | nr33 (acc : BusAccess)
  | nr34 (acc : BusAccess)
  | waveTable (k : BitVec 4) (acc : BusAccess)
deriving DecidableEq, Repr

end Sys2Proof
end

