-- ==== Sys2Proof/WellFormed.lean ====
section
/-! DEFINITION. Well-formed instructions. The types of the operands already give each field the width of R66;
the one condition left is `oam ≤ 39` of F_FETCH_SPRITE. -/

namespace Sys2Proof

/-- `oam ≤ 39` for F_FETCH_SPRITE (R66, R99); every other instruction is well-formed as typed. -/
def Instr.wellFormed : Instr → Bool
  | .reset | .ppuTick | .waveTick => true
  | .regWrite _ _ | .regRead _ | .memWrite _ _ => true
  | .fStart _ _ _ _ _ => true
  | .fFetchSprite oam _ _ _ => decide (oam.toNat ≤ 39)
  | .fTick | .qClear | .qPush8 _ | .qPop | .qMix _ _ _ | .qSize => true
  | .readTileId | .readTileData0 | .readTileData1 | .pushToFifo => true
  | .readSpriteId | .readSpriteFlags | .readSpriteData0 | .readSpriteData1 | .mixInFifo => true
  | .lineBlank | .frameBlank | .search | .transfer => true
  | .lcdc _ | .ly _ | .lyc _ | .nr30 _ | .nr31 _ | .nr32 _ | .nr33 _ | .nr34 _ => true
  | .waveTable _ _ => true

end Sys2Proof
end

