-- ==== Sys2Proof/Decode.lean ====
section
/-! DEFINITION. The default and the admitted configurations, and decoding and encoding, from the tables of spec
30_encoding.md: OP8 records (R64–R67, R84), the FST4 and MODE2 codes (R68, R69, R85), the REG16 addresses (R82, R87), and
the pseudo-operations of R89. -/

namespace Sys2Proof

/-! ### The configurations (R7, R8, R82) -/

/-- The stated defaults of R7 and R82. DESIGN CHOICE that `State.reset` carries them (log 4). -/
def Config.default : Config where
  ppuClockFactor := 1
  audioClockFactor := 1
  masterRate := 65536
  lineSteps := 456
  maxSprites := 10
  restartReloadsSample := true
  mapBase0 := 0x9800
  mapBase1 := 0x9C00
  tileBaseUnsigned := 0x8000
  tileBaseSigned := 0x9000
  spriteTileBase := 0x8000
  oamBase := 0xFE00
  lcdcAddr := 0xFF40
  lyAddr := 0xFF44
  lycAddr := 0xFF45
  nr30Addr := 0xFF1A
  nr31Addr := 0xFF1B
  nr32Addr := 0xFF1C
  nr33Addr := 0xFF1D
  nr34Addr := 0xFF1E
  waveBase := 0xFF30

/-- The eight single-byte register addresses of R82. -/
def Config.registerAddrs (m : Config) : List Addr :=
  [m.lcdcAddr, m.lyAddr, m.lycAddr, m.nr30Addr, m.nr31Addr, m.nr32Addr, m.nr33Addr, m.nr34Addr]

/-- `a` lies in the 16-byte wave-table window (R8, R82). DEDUCED: the window is `WAVE_BASE + k`, `k` = 0..15, taken
mod 2^16 (log 16). -/
def Config.inWaveWindow (m : Config) (a : Addr) : Bool := decide ((a - m.waveBase).toNat < Config.waveBytes)

/-- The constraints of R8. That every base address is below 2^16 holds by type. -/
def Config.admitted (m : Config) : Bool :=
  decide (1 ≤ m.ppuClockFactor) && decide (1 ≤ m.audioClockFactor) && decide (2048 ≤ m.masterRate)
    && decide (Config.searchSteps < m.lineSteps) && decide (m.maxSprites ≤ Config.oamEntries)
    && decide m.registerAddrs.Nodup && m.registerAddrs.all (fun a => !m.inWaveWindow a)

/-! ### OP8: the opcode byte -/

/-- The operations of the OP8 opcode map (R65). -/
inductive Op8 where
  | reset
  | ppuTick
  | waveTick
  | regWrite
  | regRead
  | memWrite
  | fStart
  | fFetchSprite
  | fTick
  | qClear
  | qPush8
  | qPop
  | qMix
  | qSize
deriving DecidableEq, Repr

/-- The opcode byte (R65). -/
def Op8.code : Op8 → Byte
  | .reset => 0x00
  | .ppuTick => 0x01
  | .waveTick => 0x02
  | .regWrite => 0x03
  | .regRead => 0x04
  | .memWrite => 0x05
  | .fStart => 0x10
  | .fFetchSprite => 0x11
  | .fTick => 0x12
  | .qClear => 0x20
  | .qPush8 => 0x21
  | .qPop => 0x22
  | .qMix => 0x23
  | .qSize => 0x24

/-- The rows of R65, in its order. -/
def Op8.all : List Op8 :=
  [.reset, .ppuTick, .waveTick, .regWrite, .regRead, .memWrite, .fStart, .fFetchSprite, .fTick,
   .qClear, .qPush8, .qPop, .qMix, .qSize]

/-- The operation an opcode byte names; the whole byte is matched (R64). -/
def Op8.ofByte (b : Byte) : Option Op8 := Op8.all.find? (fun o => o.code == b)

/-- The length of a record in bytes, the opcode byte included (R67). -/
def Op8.recordLength : Op8 → Nat
  | .reset | .ppuTick | .waveTick | .fTick | .qClear | .qPop | .qSize => 1
  | .regWrite | .memWrite => 4
  | .regRead => 3
  | .fStart => 7
  | .fFetchSprite => 4
  | .qPush8 => 3
  | .qMix => 2

/-- The lanes packed in `p`: lane i is `p[15-2i : 14-2i]` (R66). -/
def unpackLanes (p : BitVec 16) : Lanes where
  c0 := p.extractLsb' 14 2
  c1 := p.extractLsb' 12 2
  c2 := p.extractLsb' 10 2
  c3 := p.extractLsb' 8 2
  c4 := p.extractLsb' 6 2
  c5 := p.extractLsb' 4 2
  c6 := p.extractLsb' 2 2
  c7 := p.extractLsb' 0 2

/-- The 16 bits that carry the lanes (R66). -/
def packLanes (l : Lanes) : BitVec 16 :=
  BitVec.ofNat 16
    (l.c0.toNat * 2 ^ 14 + l.c1.toNat * 2 ^ 12 + l.c2.toNat * 2 ^ 10 + l.c3.toNat * 2 ^ 8
      + l.c4.toNat * 2 ^ 6 + l.c5.toNat * 2 ^ 4 + l.c6.toNat * 2 ^ 2 + l.c7.toNat)

/-- A 16-bit operand, most significant byte first (R66). -/
def joinBytes (hi lo : Byte) : BitVec 16 := BitVec.ofNat 16 (hi.toNat * 256 + lo.toNat)

/-- The high byte of a 16-bit operand (R66). -/
def highByte (a : BitVec 16) : Byte := a.extractLsb' 8 8

/-- The low byte of a 16-bit operand (R66). -/
def lowByte (a : BitVec 16) : Byte := a.extractLsb' 0 8

/-! ### OP8: whole records -/

/-- Why a whole record is refused by the decoder (R84). -/
inductive Reject where
  /-- An opcode byte that R65 does not list. -/
  | reservedOpcode
  /-- A must-be-zero operand bit is not zero. -/
  | mustBeZero
  /-- F_FETCH_SPRITE with `oam` above 39. -/
  | oamRange
deriving DecidableEq, Repr

/-- What the decoder reads at the front of a script. -/
inductive Decoded where
  /-- A defined record and the bytes after it. -/
  | record (i : Instr) (rest : List Byte)
  /-- A record R84 refuses, and the bytes after it (log 3). -/
  | undefined (why : Reject) (rest : List Byte)
  /-- The script ends inside a record. -/
  | truncated
  /-- No byte is left. -/
  | empty
deriving DecidableEq, Repr

/-- F_START's last two operand bytes (R66). -/
def decodeStart (m t : Addr) (b4 b5 : Byte) (rest : List Byte) : Decoded :=
  if b5.extractLsb' 1 7 = 0 then
    .record (.fStart m t (b4.extractLsb' 3 5) (b4.extractLsb' 0 3) (b5.getLsbD 0)) rest
  else .undefined .mustBeZero rest

/-- F_FETCH_SPRITE's operand bytes (R66). -/
def decodeFetchSprite (b1 b2 b3 : Byte) (rest : List Byte) : Decoded :=
  if b1.extractLsb' 6 2 = 0 ∧ b3.extractLsb' 6 2 = 0 then
    if (b1.extractLsb' 0 6).toNat ≤ 39 then
      .record (.fFetchSprite (b1.extractLsb' 0 6) b2 (b3.extractLsb' 3 3) (b3.extractLsb' 0 3)) rest
    else .undefined .oamRange rest
  else .undefined .mustBeZero rest

/-- Q_MIX's operand byte (R66). -/
def decodeMix (b1 : Byte) (rest : List Byte) : Decoded :=
  if b1.getLsbD 3 = false then
    .record (.qMix (b1.extractLsb' 4 4) (b1.extractLsb' 0 2) (b1.getLsbD 2)) rest
  else .undefined .mustBeZero rest

/-- The operand bytes that follow an opcode byte (R66). -/
def decodeOperands (o : Op8) (bs : List Byte) : Decoded :=
  match o with
  | .reset => .record .reset bs
  | .ppuTick => .record .ppuTick bs
  | .waveTick => .record .waveTick bs
  | .regWrite =>
    match bs with
    | ah :: al :: d :: rest => .record (.regWrite (joinBytes ah al) d) rest
    | _ => .truncated
  | .regRead =>
    match bs with
    | ah :: al :: rest => .record (.regRead (joinBytes ah al)) rest
    | _ => .truncated
  | .memWrite =>
    match bs with
    | ah :: al :: d :: rest => .record (.memWrite (joinBytes ah al) d) rest
    | _ => .truncated
  | .fStart =>
    match bs with
    | mh :: ml :: th :: tl :: b4 :: b5 :: rest => decodeStart (joinBytes mh ml) (joinBytes th tl) b4 b5 rest
    | _ => .truncated
  | .fFetchSprite =>
    match bs with
    | b1 :: b2 :: b3 :: rest => decodeFetchSprite b1 b2 b3 rest
    | _ => .truncated
  | .fTick => .record .fTick bs
  | .qClear => .record .qClear bs
  | .qPush8 =>
    match bs with
    | ph :: pl :: rest => .record (.qPush8 (unpackLanes (joinBytes ph pl))) rest
    | _ => .truncated
  | .qPop => .record .qPop bs
  | .qMix =>
    match bs with
    | b1 :: rest => decodeMix b1 rest
    | _ => .truncated
  | .qSize => .record .qSize bs

/-- The record at the front of a script (R64–R67, R84). Total on any bytes. -/
def decode (bs : List Byte) : Decoded :=
  match bs with
  | [] => .empty
  | b :: rest =>
    match Op8.ofByte b with
    | none => .undefined .reservedOpcode rest
    | some o => decodeOperands o rest

/-! ### FST4, MODE2 and REG16 -/

/-- The FST4 code of a fetcher state (R68). -/
def FetchState.code : FetchState → BitVec 4
  | .readTileId => 0b0000
  | .readTileData0 => 0b0001
  | .readTileData1 => 0b0010
  | .pushToFifo => 0b0011
  | .readSpriteId => 0b0100
  | .readSpriteFlags => 0b0101
  | .readSpriteData0 => 0b0110
  | .readSpriteData1 => 0b0111
  | .mixInFifo => 0b1000

/-- The rows of R68. -/
def FetchState.all : List FetchState :=
  [.readTileId, .readTileData0, .readTileData1, .pushToFifo, .readSpriteId, .readSpriteFlags,
   .readSpriteData0, .readSpriteData1, .mixInFifo]

/-- The fetcher state a code names; codes 9–15 are reserved (R85). -/
def FetchState.ofCode (c : BitVec 4) : Option FetchState := FetchState.all.find? (fun st => st.code == c)

/-- The row of the opcode table that a fetcher state is. -/
def FetchState.instr : FetchState → Instr
  | .readTileId => .readTileId
  | .readTileData0 => .readTileData0
  | .readTileData1 => .readTileData1
  | .pushToFifo => .pushToFifo
  | .readSpriteId => .readSpriteId
  | .readSpriteFlags => .readSpriteFlags
  | .readSpriteData0 => .readSpriteData0
  | .readSpriteData1 => .readSpriteData1
  | .mixInFifo => .mixInFifo

/-- The MODE2 code of a mode (R69). -/
def Mode.code : Mode → BitVec 2
  | .lineBlank => 0b00
  | .frameBlank => 0b01
  | .search => 0b10
  | .transfer => 0b11

/-- The mode a code names; all four codes are defined (R85). -/
def Mode.ofCode (c : BitVec 2) : Mode :=
  if c = 0b00 then .lineBlank else if c = 0b01 then .frameBlank else if c = 0b10 then .search else .transfer

/-- The row of the opcode table that a mode is. -/
def Mode.instr : Mode → Instr
  | .lineBlank => .lineBlank
  | .frameBlank => .frameBlank
  | .search => .search
  | .transfer => .transfer

/-- The address that selects a register (R82). -/
def RegName.addr (m : Config) : RegName → Addr
  | .lcdc => m.lcdcAddr
  | .ly => m.lyAddr
  | .lyc => m.lycAddr
  | .nr30 => m.nr30Addr
  | .nr31 => m.nr31Addr
  | .nr32 => m.nr32Addr
  | .nr33 => m.nr33Addr
  | .nr34 => m.nr34Addr
  | .wave k => m.waveBase + k.setWidth 16

/-- The register an address selects: the dispatch table of R82, each single register matched on the whole address
and the wave table on its 16-byte window; no row matches otherwise (R87). -/
def RegName.ofAddr (m : Config) (a : Addr) : Option RegName :=
  if a = m.lcdcAddr then some .lcdc
  else if a = m.lyAddr then some .ly
  else if a = m.lycAddr then some .lyc
  else if a = m.nr30Addr then some .nr30
  else if a = m.nr31Addr then some .nr31
  else if a = m.nr32Addr then some .nr32
  else if a = m.nr33Addr then some .nr33
  else if a = m.nr34Addr then some .nr34
  else if m.inWaveWindow a then some (.wave ((a - m.waveBase).setWidth 4))
  else none

/-- The row of the opcode table that an access to a register is. -/
def RegName.instr (r : RegName) (acc : BusAccess) : Instr :=
  match r with
  | .lcdc => .lcdc acc
  | .ly => .ly acc
  | .lyc => .lyc acc
  | .nr30 => .nr30 acc
  | .nr31 => .nr31 acc
  | .nr32 => .nr32 acc
  | .nr33 => .nr33 acc
  | .nr34 => .nr34 acc
  | .wave k => .waveTable k acc

/-! ### One code type for the four formats, and the encoder -/

/-- A word of one of the table's four formats. A REG16 word carries the access beside the address. -/
inductive Code where
  | op8 (bytes : List Byte)
  | fst4 (c : BitVec 4)
  | mode2 (c : BitVec 2)
  | reg16 (a : Addr) (acc : BusAccess)
deriving DecidableEq, Repr

/-- The instruction of one whole word, or none where the decoder refuses it. -/
def decodeCode (m : Config) : Code → Option Instr
  | .op8 bytes =>
    match decode bytes with
    | .record i [] => some i
    | _ => none
  | .fst4 c => (FetchState.ofCode c).map FetchState.instr
  | .mode2 c => some (Mode.ofCode c).instr
  | .reg16 a acc => (RegName.ofAddr m a).map (fun r => r.instr acc)

/-- F_START's operand byte 5 (R66): `tileOffset` above `tileLine`. -/
def startByte (tileOffset : BitVec 5) (tileLine : BitVec 3) : Byte :=
  BitVec.ofNat 8 (tileOffset.toNat * 8 + tileLine.toNat)

/-- F_FETCH_SPRITE's operand byte 3 (R66). -/
def spriteByte (spriteOffset spriteLine : BitVec 3) : Byte :=
  BitVec.ofNat 8 (spriteOffset.toNat * 8 + spriteLine.toNat)

/-- Q_MIX's operand byte (R66). -/
def mixByte (offset : BitVec 4) (pixel : Colour) (behind : Bool) : Byte :=
  BitVec.ofNat 8 (offset.toNat * 16 + behind.toNat * 4 + pixel.toNat)

/-- The words of an instruction, in the format of its row (R65–R69, R82). -/
def encode (m : Config) : Instr → Code
  | .reset => .op8 [Op8.reset.code]
  | .ppuTick => .op8 [Op8.ppuTick.code]
  | .waveTick => .op8 [Op8.waveTick.code]
  | .regWrite a d => .op8 [Op8.regWrite.code, highByte a, lowByte a, d]
  | .regRead a => .op8 [Op8.regRead.code, highByte a, lowByte a]
  | .memWrite a d => .op8 [Op8.memWrite.code, highByte a, lowByte a, d]
  | .fStart ma da off line sgn =>
    .op8 [Op8.fStart.code, highByte ma, lowByte ma, highByte da, lowByte da, startByte off line,
      (BitVec.ofBool sgn).setWidth 8]
  | .fFetchSprite oam x off line => .op8 [Op8.fFetchSprite.code, oam.setWidth 8, x, spriteByte off line]
  | .fTick => .op8 [Op8.fTick.code]
  | .qClear => .op8 [Op8.qClear.code]
  | .qPush8 c => .op8 [Op8.qPush8.code, highByte (packLanes c), lowByte (packLanes c)]
  | .qPop => .op8 [Op8.qPop.code]
  | .qMix offset pixel behind => .op8 [Op8.qMix.code, mixByte offset pixel behind]
  | .qSize => .op8 [Op8.qSize.code]
  | .readTileId => .fst4 FetchState.readTileId.code
  | .readTileData0 => .fst4 FetchState.readTileData0.code
  | .readTileData1 => .fst4 FetchState.readTileData1.code
  | .pushToFifo => .fst4 FetchState.pushToFifo.code
  | .readSpriteId => .fst4 FetchState.readSpriteId.code
  | .readSpriteFlags => .fst4 FetchState.readSpriteFlags.code
  | .readSpriteData0 => .fst4 FetchState.readSpriteData0.code
  | .readSpriteData1 => .fst4 FetchState.readSpriteData1.code
  | .mixInFifo => .fst4 FetchState.mixInFifo.code
  | .lineBlank => .mode2 Mode.lineBlank.code
  | .frameBlank => .mode2 Mode.frameBlank.code
  | .search => .mode2 Mode.search.code
  | .transfer => .mode2 Mode.transfer.code
  | .lcdc acc => .reg16 (RegName.lcdc.addr m) acc
  | .ly acc => .reg16 (RegName.ly.addr m) acc
  | .lyc acc => .reg16 (RegName.lyc.addr m) acc
  | .nr30 acc => .reg16 (RegName.nr30.addr m) acc
  | .nr31 acc => .reg16 (RegName.nr31.addr m) acc
  | .nr32 acc => .reg16 (RegName.nr32.addr m) acc
  | .nr33 acc => .reg16 (RegName.nr33.addr m) acc
  | .nr34 acc => .reg16 (RegName.nr34.addr m) acc
  | .waveTable k acc => .reg16 ((RegName.wave k).addr m) acc

/-- The bytes of an instruction's OP8 record; nothing for a row of another format. -/
def encodeBytes (i : Instr) : Option (List Byte) :=
  match encode Config.default i with
  | .op8 bytes => some bytes
  | _ => none

/-- A host script: its records one after the other, with no padding (R67); none if one of the instructions is no
operation a host can present. -/
def encodeScript : List Instr → Option (List Byte)
  | [] => some []
  | i :: is =>
    match encodeBytes i, encodeScript is with
    | some b, some bs => some (b ++ bs)
    | _, _ => none

/-! ### Pseudo-operations (R89) -/

/-- The pseudo-operations of the script language (R89). -/
inductive Pseudo where
  | pulse
  | pulses (n : Nat)
  | ppuTicks (n : Nat)
  | ppuSteps (n : Nat)
  | waveTicks (n : Nat)
  | memFill (a : Addr) (n : Nat) (d : Byte)
  | memBytes (a : Addr) (ds : List Byte)
  | regBytes (a : Addr) (ds : List Byte)
deriving DecidableEq, Repr

/-- `MEM_WRITE addr+i, bi` for each byte (R89), addresses mod 2^16. -/
def memWrites (a : Addr) : List Byte → List Instr
  | [] => []
  | d :: ds => .memWrite a d :: memWrites (a + 1) ds

/-- `REG_WRITE addr+i, bi` for each byte (R89), addresses mod 2^16. -/
def regWrites (a : Addr) : List Byte → List Instr
  | [] => []
  | d :: ds => .regWrite a d :: regWrites (a + 1) ds

/-- The exact expansion of a pseudo-operation (R89). -/
def Pseudo.expand (m : Config) : Pseudo → List Instr
  | .pulse => [.ppuTick, .waveTick]
  | .pulses n => (List.replicate n [Instr.ppuTick, Instr.waveTick]).flatten
  | .ppuTicks n => List.replicate n .ppuTick
  | .ppuSteps n => List.replicate (n * m.ppuClockFactor) .ppuTick
  | .waveTicks n => List.replicate n .waveTick
  | .memFill a n d => memWrites a (List.replicate n d)
  | .memBytes a ds => memWrites a ds
  | .regBytes a ds => regWrites a ds

/-! ### The words of the opcode table -/

/-- The low `n` bytes of `w`, the least significant first: bit 0 of the table's word is the least significant bit
of the first byte of the record. -/
def wordBytes : Nat → Nat → List Byte
  | 0, _ => []
  | n + 1, w => BitVec.ofNat 8 w :: wordBytes n (w / 256)

/-- The longest OP8 record, in bytes (R67). -/
abbrev longestRecord : Nat := 7

/-- The fetcher states whose codes are no OP8 opcode (R65, R68): the FST4 rows that a table word of one whole byte can
only mean. -/
def fstRowOfByte (w : Nat) : Bool := decide (6 ≤ w) && decide (w ≤ 8)

/-- The instruction the decoder reads from a row of the opcode table whose bits are `w`. The table's formats have
widths of their own: MODE2 rows have 2 bits, FST4 rows 4, REG16 rows 16 (at the default addresses, with the access
operand zero, a read), and every other width is an OP8 record, whose operand bytes are 0. A byte that is no OP8 opcode
but the code of an FST4 row is that row (log 10). -/
def decodeTableWord (nbits w : Nat) : Option Instr :=
  if nbits = 2 then decodeCode Config.default (.mode2 (BitVec.ofNat 2 w))
  else if nbits = 4 ∨ nbits = 8 ∧ fstRowOfByte w = true then decodeCode Config.default (.fst4 (BitVec.ofNat 4 w))
  else if nbits = 16 then decodeCode Config.default (.reg16 (BitVec.ofNat 16 w) .read)
  else
    match decode (wordBytes longestRecord (w % 2 ^ nbits)) with
    | .record i _ => some i
    | _ => none

end Sys2Proof
end

