-- ==== Sys2Proof/Machine/State.lean ====
section
/-! DEFINITION. The machine's state as plain data: everything spec 10_state.md gives the machine, with the reset
values of 70_reset_and_hazards.md R163, and the reasons a step can stop. -/

namespace Sys2Proof.Machine

/-- The fault codes of R149. Code 0 is not used. -/
inductive FaultCode where
  /-- 1: F_FETCH_SPRITE while the fetcher is disabled (R99). -/
  | spriteWhileDisabled
  /-- 2: F_FETCH_SPRITE while a sprite fetch is active (R99). -/
  | nestedSprite
  /-- 3: Q_PUSH8 with more than 8 elements queued (R93). -/
  | queueOverflow
  /-- 4: Q_MIX with fewer than 8 elements queued or an offset past the tail (R95). -/
  | mixRange
  /-- 5: a fetch step with a reserved code 9..15 in `f.state` (R85, R100). -/
  | badState
  /-- 6: a reserved opcode, a non-zero must-be-zero bit, or `oam > 39` (R84). -/
  | undefinedOp
deriving DecidableEq, Repr

/-- The number of a fault code (R149). -/
def FaultCode.number : FaultCode → Nat
  | .spriteWhileDisabled => 1
  | .nestedSprite => 2
  | .queueOverflow => 3
  | .mixRange => 4
  | .badState => 5
  | .undefinedOp => 6

/-- An event of the output trace (R14). -/
inductive Event where
  | writePixel (c : Colour)
  | blank
  | endOfLine
  | endOfFrame
  | sample (s : Sample)
  | regRead (a : Addr) (v : Byte)
deriving DecidableEq, Repr

/-- A value returned to the host (R10 `return v`). -/
inductive OpResult where
  /-- Nothing has been returned yet. -/
  | none
  /-- Q_POP's `Empty`, distinct from every colour (R30, R94). -/
  | empty
  /-- Q_POP's colour index (R94). -/
  | colour (c : Colour)
  /-- Q_SIZE's number of elements (R96). -/
  | size (n : Nat)
  /-- WAVE_TICK's sample (R129). -/
  | sample (s : Sample)
  /-- REG_READ's byte (R138). -/
  | byte (v : Byte)
deriving DecidableEq, Repr

/-- An entry of the visible-sprite buffer (R40). -/
structure SpriteEntry where
  oam : BitVec 6
  y : Byte
  x : Byte
  line : BitVec 3
  fetched : Bool
deriving DecidableEq, Repr

/-- The Scanline Mode Controller (R16 `ppu`): R41, R22–R25, R31, R32, R40. -/
structure Ppu where
  div : Nat
  mode : Mode
  lineTick : Nat
  x : Byte
  ly : Byte
  lcdc : Byte
  lyc : Byte
  sprites : List SpriteEntry
deriving DecidableEq, Repr

/-- The Pixel Fetch State Machine (R16 `f`): R18–R21, R26, R41. -/
structure Fetcher where
  mapAddr : Addr
  dataAddr : Addr
  tileOffset : BitVec 5
  tileLine : BitVec 3
  signedId : Bool
  tileId : Byte
  data0 : Byte
  data1 : Byte
  sprOam : BitVec 6
  sprX : Byte
  sprOffset : BitVec 3
  sprLine : BitVec 3
  sprId : Byte
  sprFlags : Byte
  sprData0 : Byte
  sprData1 : Byte
  state : BitVec 4
  old : BitVec 4
  enabled : Bool
  div : Nat
deriving DecidableEq, Repr

/-- The wave channel (R16 `w`): R33–R37, R39, R27, R41, R42. -/
structure Wave where
  nr30 : Byte
  nr31 : Byte
  nr32 : Byte
  nr33 : Byte
  nr34 : Byte
  table : Vector Byte 16
  enabled : Bool
  div : Nat
  sub : Nat
  idx : BitVec 5
  cur : Sample
deriving DecidableEq, Repr

/-- The memory collaborator `M` (R44): the launch contents and the bytes that differ from them (R56, R164; log 7). -/
structure Memory where
  /-- The byte the host launched `M` with at every address that no cell lists, or `none` where it supplied none and
  each such byte is a draw of its own (R13, R164). Fixed for the run. -/
  launch : Option Byte
  /-- The bytes that differ from what an unlisted address reads as, in rising order of address. -/
  cells : List Host.Cell
deriving DecidableEq, Repr

/-- The machine state (R16) with the parts of the model outside the block (R44, R45), the configuration (R7), and the
model's own fields: the host's script, the value last returned to the host, and the count of draws used. -/
structure State where
  /-- The configuration, fixed for the run (R7, R164; log 4). -/
  cfg : Config
  ppu : Ppu
  f : Fetcher
  /-- The Pixel Queue, head first (R38). -/
  q : List Colour
  w : Wave
  /-- The fault register (R43). -/
  fault : Option FaultCode
  mem : Memory
  /-- The output trace, oldest event first (R45). -/
  trace : List Event
  /-- The bytes the host has still to present (R67; log 1). -/
  script : List Byte
  /-- The value most recently returned to the host (R10; log 8). -/
  result : OpResult
  /-- How many draws the run has used (R13; log 5). -/
  draws : Nat
deriving DecidableEq, Repr

/-- A step that stops the model. None is a fault of the spec: the spec's faults (R149) are states, in which the fault
register holds the code and the machine goes on to the next operation (R150; log 9). -/
inductive Fault where
  /-- Raised by `step` alone: the script ends inside a record, so that no whole operation is presented (R67). Safe:
  nothing is claimed of what follows (log 2). -/
  | truncatedRecord
deriving DecidableEq, Repr

/-- A step the model does not take. -/
inductive Refusal where
  /-- Raised by an arm of `exec` whose instruction has no meaning yet. Safe: nothing is claimed of it. -/
  | notModelled (mnemonic : String)
  /-- Raised by `step` alone: the configuration is outside R8, which refuses it before any step is taken. Safe. -/
  | configNotAdmitted
  /-- Raised by `step` alone: the host presents no operation, its script being at its end (R147). Safe (log 1). -/
  | noOperation
deriving DecidableEq, Repr

/-- The controller's reset values (R162, R163). -/
def Ppu.reset : Ppu where
  div := 0
  mode := .search
  lineTick := 0
  x := 0
  ly := 0
  lcdc := 0
  lyc := 0
  sprites := []

/-- The fetcher's reset values (R162, R163); the states are FST4 0, ReadTileID. -/
def Fetcher.reset : Fetcher where
  mapAddr := 0
  dataAddr := 0
  tileOffset := 0
  tileLine := 0
  signedId := false
  tileId := 0
  data0 := 0
  data1 := 0
  sprOam := 0
  sprX := 0
  sprOffset := 0
  sprLine := 0
  sprId := 0
  sprFlags := 0
  sprData0 := 0
  sprData1 := 0
  state := 0
  old := 0
  enabled := false
  div := 0

/-- The sixteen draws that follow the first `n` of a run, one per wave-table byte (R162). -/
def Wave.drawnTable (n : Nat) : Vector Byte 16 :=
  #v[Config.draw n, Config.draw (n + 1), Config.draw (n + 2), Config.draw (n + 3),
     Config.draw (n + 4), Config.draw (n + 5), Config.draw (n + 6), Config.draw (n + 7),
     Config.draw (n + 8), Config.draw (n + 9), Config.draw (n + 10), Config.draw (n + 11),
     Config.draw (n + 12), Config.draw (n + 13), Config.draw (n + 14), Config.draw (n + 15)]

/-- The channel's reset values, the table drawn after the first `n` draws of the run (R162, R163). -/
def Wave.reset (n : Nat) : Wave where
  nr30 := 0
  nr31 := 0
  nr32 := 0
  nr33 := 0
  nr34 := 0
  table := Wave.drawnTable n
  enabled := false
  div := 0
  sub := 0
  idx := 0
  cur := 0

/-- The machine right after reset, which is also the state at power-on (R162, R163). DESIGN CHOICE for what the spec
gives no reset value: the default configuration, an empty trace and script, nothing returned, and sixteen draws
counted, those of the wave table (log 4, 13). The host has supplied no launch contents, so every byte of `M` is a
draw (R13, R164; log 7). -/
def State.reset : State where
  cfg := Config.default
  ppu := Ppu.reset
  f := Fetcher.reset
  q := []
  w := Wave.reset 0
  fault := none
  mem := { launch := none, cells := [] }
  trace := []
  script := []
  result := .none
  draws := 16

end Sys2Proof.Machine
end

