-- ==== Sys2Proof/Machine/Ops.lean ====
section
/-! DEFINITION. The named operations over the state: one setter per field, reads and writes of `M`, emitting an event,
drawing a value, and raising a fault, which is the spec's one kind of exception (60_exceptions.md). -/

namespace Sys2Proof.Machine

/-! ### Setters -/

def State.setPpu (s : State) (v : Ppu) : State := { s with ppu := v }
def State.setF (s : State) (v : Fetcher) : State := { s with f := v }
def State.setQ (s : State) (v : List Colour) : State := { s with q := v }
def State.setW (s : State) (v : Wave) : State := { s with w := v }
def State.setFault (s : State) (v : Option FaultCode) : State := { s with fault := v }
def State.setMem (s : State) (v : Memory) : State := { s with mem := v }
def State.setScript (s : State) (v : List Byte) : State := { s with script := v }

/-- `return v` to the host (R10; log 8). -/
def State.setResult (s : State) (v : OpResult) : State := { s with result := v }

/-- `emit e`: append an event to the trace (R10, R45). -/
def State.emit (s : State) (e : Event) : State := { s with trace := s.trace ++ [e] }

/-- Use up `n` draws (R13; log 5). -/
def State.useDraws (s : State) (n : Nat) : State := { s with draws := s.draws + n }

/-! ### The memory collaborator -/

/-- What an address that no cell lists reads as: the host's launch byte, or the draw for that address (R13, R56, R164;
log 7). -/
def Memory.unlisted (launch : Option Byte) (a : Nat) : Byte :=
  match launch with
  | some v => v
  | none => Config.launchDraw a

/-- The byte at an address, from the cells. -/
def Memory.readCells (launch : Option Byte) (cells : List Host.Cell) (a : Nat) : Byte :=
  match cells with
  | [] => Memory.unlisted launch a
  | c :: rest => if a = c.1 then c.2 else Memory.readCells launch rest a

/-- The byte at an address. -/
def Memory.read (m : Memory) (a : Nat) : Byte := Memory.readCells m.launch m.cells a

/-- Put a cell, or no cell if the byte is what an unlisted address reads as, in front of `cells`. -/
def Memory.putCell (launch : Option Byte) (a : Nat) (v : Byte) (cells : List Host.Cell) : List Host.Cell :=
  if v = Memory.unlisted launch a then cells else (a, v) :: cells

/-- Write a byte into the cells, keeping the canonical form. -/
def Memory.writeCells (launch : Option Byte) (cells : List Host.Cell) (a : Nat) (v : Byte) : List Host.Cell :=
  match cells with
  | [] => Memory.putCell launch a v []
  | c :: rest =>
    if a < c.1 then Memory.putCell launch a v (c :: rest)
    else if a = c.1 then Memory.putCell launch a v rest
    else c :: Memory.writeCells launch rest a v

/-- Write a byte; the launch contents stay (R164). -/
def Memory.write (m : Memory) (a : Nat) (v : Byte) : Memory :=
  { m with cells := Memory.writeCells m.launch m.cells a v }

/-- The canonical form: addresses strictly rising from `lo` on, all below 2^16, and no byte equal to what an unlisted
address reads as. -/
def Memory.wfFrom (launch : Option Byte) (lo : Nat) (cells : List Host.Cell) : Bool :=
  match cells with
  | [] => true
  | c :: rest =>
    decide (lo ≤ c.1) && decide (c.1 < 65536) && decide (c.2 ≠ Memory.unlisted launch c.1)
      && Memory.wfFrom launch (c.1 + 1) rest

/-- The canonical form of a memory. -/
def Memory.wf (m : Memory) : Bool := Memory.wfFrom m.launch 0 m.cells

/-- `MemRead(addr, 1)`: the block's only way to read the collaborator (R143). -/
def State.memRead (s : State) (a : Addr) : Byte := s.mem.read a.toNat

/-- `MemWrite(addr, 1, v)`: performed by the host alone (R142). -/
def State.memWrite (s : State) (a : Addr) (v : Byte) : State := s.setMem (s.mem.write a.toNat v)

/-! ### Faults: the exception of this block, and the way out -/

/-- `raise Fault(code)` from the state before the host operation: the register takes the code and nothing else changes
(R150). There is no trap entry (R153). -/
def raiseFault (c : FaultCode) (s : State) : State := s.setFault (some c)

/-- One operation on the machine (R150): it is refused, changing nothing, while the fault register holds a code. A
fault it raises undoes everything it did. -/
def runOp (s : State) (body : State → Except FaultCode State) : Host.Outcome State Fault Refusal :=
  match s.fault with
  | some _ => .next s
  | none =>
    match body s with
    | .ok t => .next t
    | .error c => .next (raiseFault c s)

/-- RESET's effect (R162): the block at its reset values, the fault register cleared, and `M`, the trace and the
configuration untouched (R164). It is the only way out of a fault (R154). -/
def resetBlock (s : State) : State :=
  (((((s.setPpu Ppu.reset).setF Fetcher.reset).setQ []).setW (Wave.reset s.draws)).setFault none).useDraws 16

end Sys2Proof.Machine
end

