-- ==== Sys2Proof/Machine/Operands.lean ====
section
/-! DEFINITION. Operand forms: row decode, address formation, the fields of OAM entries and of the registers, and the
wave table's samples (30_encoding.md sections 2 and 3). -/

namespace Sys2Proof.Machine

/-! ### Row decode (R75) -/

/-- The colour of column `col` (0 is the leftmost): bit `b` of the planes, where `b` is `7 - col`, or `col` when the row
is flipped; the high plane gives the high bit (R75). -/
def pixelAt (lo hi : Byte) (hflip : Bool) (col : Nat) : Colour :=
  let b := if hflip then col else 7 - col
  BitVec.ofNat 2 (2 * (hi.getLsbD b).toNat + (lo.getLsbD b).toNat)

/-- `decode(lo, hi, hflip)` of R75. -/
def decodeRow (lo hi : Byte) (hflip : Bool) : Lanes where
  c0 := pixelAt lo hi hflip 0
  c1 := pixelAt lo hi hflip 1
  c2 := pixelAt lo hi hflip 2
  c3 := pixelAt lo hi hflip 3
  c4 := pixelAt lo hi hflip 4
  c5 := pixelAt lo hi hflip 5
  c6 := pixelAt lo hi hflip 6
  c7 := pixelAt lo hi hflip 7

/-! ### Addresses (R77–R81) -/

/-- The tile number of a background tile index: signed in −128..127, or unsigned in 0..255 (R77). -/
def tileNumber (signedId : Bool) (id : Byte) : Int := if signedId then id.toInt else (id.toNat : Int)

/-- The background map entry's address (R78). -/
def mapEntryAddr (f : Fetcher) : Addr := f.mapAddr + f.tileOffset.setWidth 16

/-- The background tile row's address, mod 2^16 (R79). -/
def tileRowAddr (f : Fetcher) : Addr :=
  BitVec.ofInt 16 ((f.dataAddr.toNat : Int) + 16 * tileNumber f.signedId f.tileId + 2 * (f.tileLine.toNat : Int))

/-- The sprite row selected: 7 − line under vertical flip (R80). -/
def spriteRow (f : Fetcher) : Nat := if f.sprFlags.getLsbD 6 then 7 - f.sprLine.toNat else f.sprLine.toNat

/-- The sprite tile row's address, mod 2^16 (R80). -/
def spriteRowAddr (m : Config) (f : Fetcher) : Addr :=
  BitVec.ofNat 16 (m.spriteTileBase.toNat + 16 * f.sprId.toNat + 2 * spriteRow f)

/-- The address of byte `j` of OAM entry `k`, mod 2^16 (R81). -/
def oamAddr (m : Config) (k j : Nat) : Addr := BitVec.ofNat 16 (m.oamBase.toNat + 4 * k + j)

/-! ### Fields of the control bytes (R31, R70, R73) -/

/-- LCDC bit 0, background-on. -/
def lcdcBackgroundOn (lcdc : Byte) : Bool := lcdc.getLsbD 0
/-- LCDC bit 1, sprite-on. -/
def lcdcSpriteOn (lcdc : Byte) : Bool := lcdc.getLsbD 1
/-- LCDC bit 3, background-map-select. -/
def lcdcMapSelect (lcdc : Byte) : Bool := lcdc.getLsbD 3
/-- LCDC bit 4, tile-data-select. -/
def lcdcTileDataSelect (lcdc : Byte) : Bool := lcdc.getLsbD 4
/-- LCDC bit 7, display-on. -/
def lcdcDisplayOn (lcdc : Byte) : Bool := lcdc.getLsbD 7

/-- Sprite flags bit 7, priority: behind non-zero background colours (R73). -/
def spriteBehind (flags : Byte) : Bool := flags.getLsbD 7
/-- Sprite flags bit 5, horizontal flip (R73). -/
def spriteHFlip (flags : Byte) : Bool := flags.getLsbD 5

/-! ### The wave channel's fields (R71, R74, R76) -/

/-- The 11-bit frequency field, `NR34[2:0] ++ NR33[7:0]` (R76). -/
def rawFrequency (w : Wave) : BitVec 11 := BitVec.ofNat 11 (w.nr34.toNat % 8 * 256 + w.nr33.toNat)

/-- The right shift the volume code `NR32[6:5]` selects: mute 4, full 0, half 1, quarter 2 (R71). -/
def volumeShift (nr32 : Byte) : Nat :=
  match (nr32.extractLsb' 5 2).toNat with
  | 0 => 4
  | 1 => 0
  | 2 => 1
  | _ => 2

/-- Byte `k` of the wave table. -/
def waveByte (w : Wave) (k : BitVec 4) : Byte := w.table[k.toNat]'(k.isLt)

/-- The table with byte `k` replaced. -/
def setWaveByte (w : Wave) (k : BitVec 4) (d : Byte) : Vector Byte 16 := w.table.set k.toNat d k.isLt

/-- Sample `i`: byte `i div 2`, its high nibble if `i` is even (R74). -/
def waveNibble (w : Wave) (i : BitVec 5) : Sample :=
  let b := waveByte w (i.extractLsb' 1 4)
  if i.getLsbD 0 then b.extractLsb' 0 4 else b.extractLsb' 4 4

/-- `sample_value(i)`: the nibble shifted right by the volume (R134). -/
def sampleValue (w : Wave) (i : BitVec 5) : Sample := waveNibble w i >>> volumeShift w.nr32

end Sys2Proof.Machine
end

