-- ==== Sys2Proof/Machine/Flags.lean ====
section
/-! DEFINITION. The flags and conditions the block computes: the coincidence flag, the sprite-path predicate, the pop
gate, the silence gate and the restart latch (10_state.md section 4). -/

namespace Sys2Proof.Machine

/-- `ppu.coincidence`, derived and never stored (R29). -/
def coincidence (s : State) : Bool := s.ppu.ly == s.ppu.lyc

/-- `in_sprite_path(s)` is `4 ≤ s ≤ 8` (R68). -/
def inSpritePath (c : BitVec 4) : Bool := decide (4 ≤ c.toNat) && decide (c.toNat ≤ 8)

/-- The pop gate (R118). -/
def popAllowed (s : State) : Bool := !inSpritePath s.f.state && decide (Config.queueLow < s.q.length)

/-- The restart latch, NR34 bit 7 (R28). -/
def restartLatch (w : Wave) : Bool := w.nr34.getLsbD 7

/-- NR34 with the restart latch cleared (R130). -/
def clearRestart (nr34 : Byte) : Byte := nr34 &&& 0x7F

/-- NR34 after a write: bits 6:0 stored, the latch set or kept (R137). -/
def writeNr34 (nr34 d : Byte) : Byte := (nr34 &&& 0x80) ||| d

/-- NR34 as read: bit 7 is a draw, bits 6:0 are stored bits (R138). -/
def readNr34 (drawn nr34 : Byte) : Byte := (drawn &&& 0x80) ||| (nr34 &&& 0x7F)

/-- The silence gate is open: the channel is enabled and NR30 bit 7 is set (R131). -/
def gateOpen (w : Wave) : Bool := w.enabled && w.nr30.getLsbD 7

end Sys2Proof.Machine
end

