-- ==== Sys2Proof/Machine/HostBus.lean ====
section
/-! DEFINITION. The host's accesses: REG_WRITE, REG_READ, MEM_WRITE, and the register accesses of the REG16 rows
(44_host_interface.md). -/

namespace Sys2Proof.Machine

/-- Write a byte to a register (R137, R139–R141). LY ignores writes (R140). -/
def writeReg (r : RegName) (d : Byte) (s : State) : State :=
  match r with
  | .lcdc => s.setPpu { s.ppu with lcdc := d }
  | .ly => s
  | .lyc => s.setPpu { s.ppu with lyc := d }
  | .nr30 => s.setW { s.w with nr30 := d }
  | .nr31 => s.setW { s.w with nr31 := d }
  | .nr32 => s.setW { s.w with nr32 := d }
  | .nr33 => s.setW { s.w with nr33 := d }
  | .nr34 => s.setW { s.w with nr34 := writeNr34 s.w.nr34 d }
  | .wave k => s.setW { s.w with table := setWaveByte s.w k d }

/-- The byte a register reads as (R138). -/
def readReg (r : RegName) (s : State) : Byte :=
  match r with
  | .lcdc => s.ppu.lcdc
  | .ly => s.ppu.ly
  | .lyc => s.ppu.lyc
  | .nr30 => s.w.nr30
  | .nr31 => s.w.nr31
  | .nr32 => s.w.nr32
  | .nr33 => s.w.nr33
  | .nr34 => readNr34 (Config.draw s.draws) s.w.nr34
  | .wave k => waveByte s.w k

/-- How many draws a read of a register uses: one for NR34's bit 7, else none (R138; log 5). -/
def readDraws (r : RegName) : Nat :=
  match r with
  | .nr34 => 1
  | .lcdc | .ly | .lyc | .nr30 | .nr31 | .nr32 | .nr33 | .wave _ => 0

/-- `emit regRead(a, v); return v` (R138). -/
def answerRead (a : Addr) (v : Byte) (s : State) : State := (s.emit (.regRead a v)).setResult (.byte v)

/-- REG_READ of a register at the address that selects it (R138). -/
def busRead (r : RegName) (a : Addr) (s : State) : State := (answerRead a (readReg r s) s).useDraws (readDraws r)

/-- REG_READ of an address no register occupies: a draw (R87, R138). -/
def busReadUnmapped (a : Addr) (s : State) : State := (answerRead a (Config.draw s.draws) s).useDraws 1

/-- The access of a REG16 row: its register, at its own address. -/
def busAccess (r : RegName) (acc : BusAccess) (s : State) : State :=
  match acc with
  | .read => busRead r (r.addr s.cfg) s
  | .write d => writeReg r d s

/-- REG_WRITE through the dispatch table (R137); an unmapped address has no effect on the block (R87). -/
def regWrite (a : Addr) (d : Byte) (s : State) : State :=
  match RegName.ofAddr s.cfg a with
  | some r => writeReg r d s
  | none => s

/-- REG_READ through the dispatch table (R138). -/
def regRead (a : Addr) (s : State) : State :=
  match RegName.ofAddr s.cfg a with
  | some r => busRead r a s
  | none => busReadUnmapped a s

/-! ### The meanings -/

/-- REG_WRITE (R137). -/
def execRegWrite (a : Addr) (d : Byte) (s : State) : Host.Outcome State Fault Refusal :=
  runOp s (fun s => .ok (regWrite a d s))

/-- REG_READ (R138). -/
def execRegRead (a : Addr) (s : State) : Host.Outcome State Fault Refusal := runOp s (fun s => .ok (regRead a s))

/-- MEM_WRITE (R142). -/
def execMemWrite (a : Addr) (d : Byte) (s : State) : Host.Outcome State Fault Refusal :=
  runOp s (fun s => .ok (s.memWrite a d))

/-- LCDC (R139). -/
def execLcdc (acc : BusAccess) (s : State) : Host.Outcome State Fault Refusal :=
  runOp s (fun s => .ok (busAccess .lcdc acc s))

/-- LY (R140). -/
def execLy (acc : BusAccess) (s : State) : Host.Outcome State Fault Refusal :=
  runOp s (fun s => .ok (busAccess .ly acc s))

/-- LYC (R139). -/
def execLyc (acc : BusAccess) (s : State) : Host.Outcome State Fault Refusal :=
  runOp s (fun s => .ok (busAccess .lyc acc s))

/-- NR30 (R141). -/
def execNr30 (acc : BusAccess) (s : State) : Host.Outcome State Fault Refusal :=
  runOp s (fun s => .ok (busAccess .nr30 acc s))

/-- NR31 (R141). -/
def execNr31 (acc : BusAccess) (s : State) : Host.Outcome State Fault Refusal :=
  runOp s (fun s => .ok (busAccess .nr31 acc s))

/-- NR32 (R141). -/
def execNr32 (acc : BusAccess) (s : State) : Host.Outcome State Fault Refusal :=
  runOp s (fun s => .ok (busAccess .nr32 acc s))

/-- NR33 (R141). -/
def execNr33 (acc : BusAccess) (s : State) : Host.Outcome State Fault Refusal :=
  runOp s (fun s => .ok (busAccess .nr33 acc s))

/-- NR34 (R141). -/
def execNr34 (acc : BusAccess) (s : State) : Host.Outcome State Fault Refusal :=
  runOp s (fun s => .ok (busAccess .nr34 acc s))

/-- WAVE_TABLE, byte `k` (R141). -/
def execWaveTable (k : BitVec 4) (acc : BusAccess) (s : State) : Host.Outcome State Fault Refusal :=
  runOp s (fun s => .ok (busAccess (.wave k) acc s))

end Sys2Proof.Machine
end

