-- ==== Sys2Proof/Machine/Queue.lean ====
section
/-! DEFINITION. The Pixel Queue's operations and the meanings of Q_CLEAR, Q_PUSH8, Q_POP, Q_MIX and Q_SIZE
(40_pixel_queue.md). -/

namespace Sys2Proof.Machine

/-- Put the queue an operation answers into the state, or pass its fault on. -/
def withQueue (s : State) (r : Except FaultCode (List Colour)) : Except FaultCode State :=
  match r with
  | .ok q => .ok (s.setQ q)
  | .error c => .error c

/-- Append a batch of 8 at the tail, lane 0 first (R93). -/
def queuePush8 (q : List Colour) (c : Lanes) : Except FaultCode (List Colour) :=
  if Config.queueLow < q.length then .error .queueOverflow else .ok (q ++ c.toList)

/-- The head and the queue without it; nothing when the queue is empty (R94). -/
def queuePop (q : List Colour) : Option (Colour × List Colour) :=
  match q with
  | [] => none
  | c :: rest => some (c, rest)

/-- The colour a queued element has after a sprite pixel is mixed into it (R95): a sprite's colour 0 is transparent,
and a sprite behind shows only over colour 0. -/
def mixColour (under pixel : Colour) (behind : Bool) : Colour :=
  if pixel = 0 then under
  else if behind = true ∧ under ≠ 0 then under
  else pixel

/-- Combine one sprite pixel into the element at `offset` (R95). -/
def queueMix (q : List Colour) (offset : Nat) (pixel : Colour) (behind : Bool) : Except FaultCode (List Colour) :=
  if q.length < Config.queueLow ∨ q.length ≤ offset then .error .mixRange
  else .ok (q.set offset (mixColour (q.getD offset 0) pixel behind))

/-- Q_MIX at the offsets `offset`, `offset + 1`, … for the pixels of a list (R91, R109). -/
def queueMixFrom (q : List Colour) (offset : Nat) (pixels : List Colour) (behind : Bool) :
    Except FaultCode (List Colour) :=
  match pixels with
  | [] => .ok q
  | p :: rest =>
    match queueMix q offset p behind with
    | .ok q' => queueMixFrom q' (offset + 1) rest behind
    | .error c => .error c

/-- The value Q_POP returns: `Empty`, or a colour index (R30, R94). -/
def popResult (r : Option (Colour × List Colour)) : OpResult :=
  match r with
  | none => .empty
  | some (c, _) => .colour c

/-- The queue Q_POP leaves. -/
def popQueue (r : Option (Colour × List Colour)) : List Colour :=
  match r with
  | none => []
  | some (_, rest) => rest

/-- Q_CLEAR (R92). -/
def execQClear (s : State) : Host.Outcome State Fault Refusal := runOp s (fun s => .ok (s.setQ []))

/-- Q_PUSH8 (R93). -/
def execQPush8 (c : Lanes) (s : State) : Host.Outcome State Fault Refusal :=
  runOp s (fun s => withQueue s (queuePush8 s.q c))

/-- Q_POP (R94). -/
def execQPop (s : State) : Host.Outcome State Fault Refusal :=
  runOp s (fun s => .ok ((s.setQ (popQueue (queuePop s.q))).setResult (popResult (queuePop s.q))))

/-- Q_MIX (R95). -/
def execQMix (offset : BitVec 4) (pixel : Colour) (behind : Bool) (s : State) : Host.Outcome State Fault Refusal :=
  runOp s (fun s => withQueue s (queueMix s.q offset.toNat pixel behind))

/-- Q_SIZE (R96). -/
def execQSize (s : State) : Host.Outcome State Fault Refusal :=
  runOp s (fun s => .ok (s.setResult (.size s.q.length)))

end Sys2Proof.Machine
end

