-- ==== Sys2Proof/Machine/Fetch.lean ====
section
/-! DEFINITION. The Pixel Fetch State Machine: F_START, F_FETCH_SPRITE, F_TICK, and the nine fetch steps of the FST4
rows (41_pixel_fetch.md). -/

namespace Sys2Proof.Machine

/-! ### The operations invoked on the fetcher -/

/-- F_START (R98): the context, state ReadTileID, the divider and the queue cleared, the fetcher enabled. -/
def startFetch (mapAddr dataAddr : Addr) (tileOffset : BitVec 5) (tileLine : BitVec 3) (signedId : Bool)
    (s : State) : State :=
  (s.setF { s.f with
    mapAddr := mapAddr, dataAddr := dataAddr, tileOffset := tileOffset, tileLine := tileLine,
    signedId := signedId, state := FetchState.readTileId.code, div := 0, enabled := true }).setQ []

/-- F_FETCH_SPRITE (R99): save the background state and switch to ReadSpriteID. The disabled test comes first (R151). -/
def fetchSprite (oam : BitVec 6) (x : Byte) (spriteOffset spriteLine : BitVec 3) (s : State) :
    Except FaultCode State :=
  if s.f.enabled = false then .error .spriteWhileDisabled
  else if inSpritePath s.f.state = true then .error .nestedSprite
  else .ok (s.setF { s.f with
    old := s.f.state, state := FetchState.readSpriteId.code,
    sprOam := oam, sprX := x, sprOffset := spriteOffset, sprLine := spriteLine })

/-! ### The background path -/

/-- Step ReadTileID (R101). -/
def stepReadTileId (s : State) : State :=
  s.setF { s.f with tileId := s.memRead (mapEntryAddr s.f), state := FetchState.readTileData0.code }

/-- Step ReadTileData0 (R102). -/
def stepReadTileData0 (s : State) : State :=
  s.setF { s.f with data0 := s.memRead (tileRowAddr s.f), state := FetchState.readTileData1.code }

/-- Step ReadTileData1 (R103): the byte after plane0's. -/
def stepReadTileData1 (s : State) : State :=
  s.setF { s.f with data1 := s.memRead (tileRowAddr s.f + 1), state := FetchState.pushToFifo.code }

/-- The row PushToFIFO pushes: the decoded row, or colour 0 throughout with the background off (R104). -/
def backgroundRow (s : State) : Lanes :=
  if lcdcBackgroundOn s.ppu.lcdc then decodeRow s.f.data0 s.f.data1 false else Lanes.zero

/-- Step PushToFIFO (R104): stall while more than 8 elements are queued. -/
def stepPushToFifo (s : State) : Except FaultCode State :=
  if Config.queueLow < s.q.length then .ok s
  else withQueue
    (s.setF { s.f with tileOffset := s.f.tileOffset + 1, state := FetchState.readTileId.code })
    (queuePush8 s.q (backgroundRow s))

/-! ### The sprite path -/

/-- Step ReadSpriteID (R105). -/
def stepReadSpriteId (s : State) : State :=
  s.setF { s.f with
    sprId := s.memRead (oamAddr s.cfg s.f.sprOam.toNat 2), state := FetchState.readSpriteFlags.code }

/-- Step ReadSpriteFlags (R106). -/
def stepReadSpriteFlags (s : State) : State :=
  s.setF { s.f with
    sprFlags := s.memRead (oamAddr s.cfg s.f.sprOam.toNat 3), state := FetchState.readSpriteData0.code }

/-- Step ReadSpriteData0 (R107). -/
def stepReadSpriteData0 (s : State) : State :=
  s.setF { s.f with
    sprData0 := s.memRead (spriteRowAddr s.cfg s.f), state := FetchState.readSpriteData1.code }

/-- Step ReadSpriteData1 (R108). -/
def stepReadSpriteData1 (s : State) : State :=
  s.setF { s.f with
    sprData1 := s.memRead (spriteRowAddr s.cfg s.f + 1), state := FetchState.mixInFifo.code }

/-- Step MixInFIFO (R109): stall while fewer than 8 elements are queued; else mix the row in and restore the saved
state. -/
def stepMixInFifo (s : State) : Except FaultCode State :=
  if s.q.length < Config.queueLow then .ok s
  else withQueue (s.setF { s.f with state := s.f.old })
    (queueMixFrom s.q 0 (decodeRow s.f.sprData0 s.f.sprData1 (spriteHFlip s.f.sprFlags)).toList
      (spriteBehind s.f.sprFlags))

/-! ### F_TICK -/

/-- One fetch step of a named state (R100). -/
def fetchStepOf (st : FetchState) (s : State) : Except FaultCode State :=
  match st with
  | .readTileId => .ok (stepReadTileId s)
  | .readTileData0 => .ok (stepReadTileData0 s)
  | .readTileData1 => .ok (stepReadTileData1 s)
  | .pushToFifo => stepPushToFifo s
  | .readSpriteId => .ok (stepReadSpriteId s)
  | .readSpriteFlags => .ok (stepReadSpriteFlags s)
  | .readSpriteData0 => .ok (stepReadSpriteData0 s)
  | .readSpriteData1 => .ok (stepReadSpriteData1 s)
  | .mixInFifo => stepMixInFifo s

/-- The fetch step `f.state` names; a reserved code faults (R85, R100). -/
def fetchStep (s : State) : Except FaultCode State :=
  match FetchState.ofCode s.f.state with
  | some st => fetchStepOf st s
  | none => .error .badState

/-- F_TICK (R100): nothing while disabled, a step at every second call. -/
def tickFetcher (s : State) : Except FaultCode State :=
  if s.f.enabled = false then .ok s
  else if s.f.div + 1 < Config.fetchClockFactor then .ok (s.setF { s.f with div := s.f.div + 1 })
  else fetchStep (s.setF { s.f with div := 0 })

/-! ### The meanings -/

/-- F_START (R98). -/
def execFStart (mapAddr dataAddr : Addr) (tileOffset : BitVec 5) (tileLine : BitVec 3) (signedId : Bool)
    (s : State) : Host.Outcome State Fault Refusal :=
  runOp s (fun s => .ok (startFetch mapAddr dataAddr tileOffset tileLine signedId s))

/-- F_FETCH_SPRITE (R99). -/
def execFFetchSprite (oam : BitVec 6) (x : Byte) (spriteOffset spriteLine : BitVec 3) (s : State) :
    Host.Outcome State Fault Refusal :=
  runOp s (fetchSprite oam x spriteOffset spriteLine)

/-- F_TICK (R100). -/
def execFTick (s : State) : Host.Outcome State Fault Refusal := runOp s tickFetcher

/-- ReadTileID (R101). -/
def execReadTileId (s : State) : Host.Outcome State Fault Refusal := runOp s (fun s => .ok (stepReadTileId s))

/-- ReadTileData0 (R102). -/
def execReadTileData0 (s : State) : Host.Outcome State Fault Refusal := runOp s (fun s => .ok (stepReadTileData0 s))

/-- ReadTileData1 (R103). -/
def execReadTileData1 (s : State) : Host.Outcome State Fault Refusal := runOp s (fun s => .ok (stepReadTileData1 s))

/-- PushToFIFO (R104). -/
def execPushToFifo (s : State) : Host.Outcome State Fault Refusal := runOp s stepPushToFifo

/-- ReadSpriteID (R105). -/
def execReadSpriteId (s : State) : Host.Outcome State Fault Refusal := runOp s (fun s => .ok (stepReadSpriteId s))

/-- ReadSpriteFlags (R106). -/
def execReadSpriteFlags (s : State) : Host.Outcome State Fault Refusal :=
  runOp s (fun s => .ok (stepReadSpriteFlags s))

/-- ReadSpriteData0 (R107). -/
def execReadSpriteData0 (s : State) : Host.Outcome State Fault Refusal :=
  runOp s (fun s => .ok (stepReadSpriteData0 s))

/-- ReadSpriteData1 (R108). -/
def execReadSpriteData1 (s : State) : Host.Outcome State Fault Refusal :=
  runOp s (fun s => .ok (stepReadSpriteData1 s))

/-- MixInFIFO (R109). -/
def execMixInFifo (s : State) : Host.Outcome State Fault Refusal := runOp s stepMixInFifo

end Sys2Proof.Machine
end

