-- ==== Sys2Proof/Machine/Scanline.lean ====
section
/-! DEFINITION. The Scanline Mode Controller: PPU_TICK, the controller step, and the mode steps of the MODE2 rows
(42_scanline.md). -/

namespace Sys2Proof.Machine

/-! ### Search -/

/-- OAM entry with position `y` covers line `ly`: `y ≤ ly + 16 < y + 8` (R116). -/
def spriteOnLine (ly y : Byte) : Bool :=
  decide (y.toNat ≤ ly.toNat + 16) && decide (ly.toNat + 16 < y.toNat + 8)

/-- The buffer entry of OAM slot `k` (R116). -/
def spriteEntry (k : Nat) (ly y x : Byte) : SpriteEntry where
  oam := BitVec.ofNat 6 k
  y := y
  x := x
  line := BitVec.ofNat 3 (ly.toNat + 16 - y.toNat)
  fetched := false

/-- `select_sprite(k)` (R116). -/
def selectSprite (k : Nat) (s : State) : State :=
  let y := s.memRead (oamAddr s.cfg k 0)
  let x := s.memRead (oamAddr s.cfg k 1)
  if s.ppu.sprites.length < s.cfg.maxSprites ∧ spriteOnLine s.ppu.ly y = true then
    s.setPpu { s.ppu with sprites := s.ppu.sprites ++ [spriteEntry k s.ppu.ly y x] }
  else s

/-- The map row of the current line, mod 2^16 (R115). -/
def mapRowAddr (m : Config) (p : Ppu) : Addr :=
  BitVec.ofNat 16
    ((if lcdcMapSelect p.lcdc then m.mapBase1 else m.mapBase0).toNat + Config.tileMapWidth * (p.ly.toNat / Config.tileRows))

/-- The tile data base LCDC bit 4 selects (R31, R115). -/
def tileDataBase (m : Config) (p : Ppu) : Addr :=
  if lcdcTileDataSelect p.lcdc then m.tileBaseUnsigned else m.tileBaseSigned

/-- `enter_transfer()` (R115): x cleared, the fetcher started with the line's context, mode Transfer. -/
def enterTransfer (s : State) : State :=
  let s1 := startFetch (mapRowAddr s.cfg s.ppu) (tileDataBase s.cfg s.ppu) 0
    (BitVec.ofNat 3 (s.ppu.ly.toNat % Config.tileRows)) (!lcdcTileDataSelect s.ppu.lcdc) s
  s1.setPpu { s.ppu with x := 0, mode := .transfer }

/-- A Search step, after the controller step has counted `line_tick` (R114). -/
def stepSearch (s : State) : State :=
  let k := s.ppu.lineTick - 1
  let s1 := if k = 0 then s.setPpu { s.ppu with sprites := [] } else s
  let s2 := selectSprite k s1
  if s.ppu.lineTick = Config.searchSteps then enterTransfer s2 else s2

/-! ### Transfer -/

/-- The sprite of a buffer entry starts at column `x`: unfetched, `1 ≤ X ≤ 167` and `max(X − 8, 0) = x` (R119). -/
def triggersAt (x : Byte) (e : SpriteEntry) : Bool :=
  !e.fetched && decide (1 ≤ e.x.toNat) && decide (e.x.toNat ≤ 167) && decide (e.x.toNat - 8 = x.toNat)

/-- The first entry that starts at column `x`, and the buffer with that entry marked fetched (R119). -/
def takeSprite (x : Byte) (es : List SpriteEntry) : Option (SpriteEntry × List SpriteEntry) :=
  match es with
  | [] => none
  | e :: rest =>
    if triggersAt x e then some (e, { e with fetched := true } :: rest)
    else
      match takeSprite x rest with
      | some (found, marked) => some (found, e :: marked)
      | none => none

/-- `spriteOffset`: 8 − X for a sprite partly off the left edge, else 0 (R119). -/
def spriteOffsetOf (e : SpriteEntry) : BitVec 3 := if e.x.toNat < 8 then BitVec.ofNat 3 (8 - e.x.toNat) else 0

/-- `sprite_trigger()` (R119). -/
def spriteTrigger (s : State) : Except FaultCode State :=
  if lcdcSpriteOn s.ppu.lcdc = false ∨ inSpritePath s.f.state = true ∨ s.q.length < Config.queueLow then .ok s
  else
    match takeSprite s.ppu.x s.ppu.sprites with
    | none => .ok s
    | some (e, marked) =>
      fetchSprite e.oam e.x (spriteOffsetOf e) e.line (s.setPpu { s.ppu with sprites := marked })

/-- The event of a popped pixel: `writePixel`, or `blank` while the display is off (R120). -/
def pixelEvent (lcdc : Byte) (c : Colour) : Event := if lcdcDisplayOn lcdc then .writePixel c else .blank

/-- `end_transfer()` (R121). -/
def endTransfer (s : State) : State :=
  ((s.setF { s.f with enabled := false }).emit .endOfLine).setPpu { s.ppu with mode := .lineBlank }

/-- Parts (c) and (d) of a Transfer step once the gate lets it pop: emit the head, count it, and end Transfer at the
160th (R117, R120, R121). -/
def popPixel (s : State) : State :=
  match queuePop s.q with
  | none => s
  | some (c, rest) =>
    let s1 := ((s.setQ rest).emit (pixelEvent s.ppu.lcdc c)).setPpu { s.ppu with x := s.ppu.x + 1 }
    if s1.ppu.x.toNat = Config.screenWidth then endTransfer s1 else s1

/-- A Transfer step (R117): (a) F_TICK, (b) the sprite trigger, (c) pop and emit, (d) the end check. -/
def stepTransfer (s : State) : Except FaultCode State :=
  match tickFetcher s with
  | .error c => .error c
  | .ok s1 =>
    match spriteTrigger s1 with
    | .error c => .error c
    | .ok s2 => .ok (if popAllowed s2 then popPixel s2 else s2)

/-! ### The blank phases -/

/-- A LineBlank step (R122). -/
def stepLineBlank (s : State) : State :=
  if s.cfg.lineSteps ≤ s.ppu.lineTick then
    let ly := s.ppu.ly + 1
    if ly.toNat = Config.visibleLines then
      (s.setPpu { s.ppu with lineTick := 0, ly := ly, mode := .frameBlank }).emit .endOfFrame
    else s.setPpu { s.ppu with lineTick := 0, ly := ly, mode := .search }
  else s

/-- A FrameBlank step (R123). -/
def stepFrameBlank (s : State) : State :=
  if s.cfg.lineSteps ≤ s.ppu.lineTick then
    if s.ppu.ly.toNat = Config.totalLines - 1 then
      s.setPpu { s.ppu with lineTick := 0, ly := 0, mode := .search }
    else s.setPpu { s.ppu with lineTick := 0, ly := s.ppu.ly + 1 }
  else s

/-! ### The controller step and the tick -/

/-- The step of a named mode (R113). -/
def modeStep (m : Mode) (s : State) : Except FaultCode State :=
  match m with
  | .lineBlank => .ok (stepLineBlank s)
  | .frameBlank => .ok (stepFrameBlank s)
  | .search => .ok (stepSearch s)
  | .transfer => stepTransfer s

/-- A controller step: count the step of the line, then do the mode's (R113). -/
def controllerStep (s : State) : Except FaultCode State :=
  modeStep s.ppu.mode (s.setPpu { s.ppu with lineTick := s.ppu.lineTick + 1 })

/-- PPU_TICK: a controller step every `PPU_CLOCK_FACTOR` calls (R112). -/
def tickPpu (s : State) : Except FaultCode State :=
  if s.ppu.div + 1 < s.cfg.ppuClockFactor then .ok (s.setPpu { s.ppu with div := s.ppu.div + 1 })
  else controllerStep (s.setPpu { s.ppu with div := 0 })

/-! ### The meanings -/

/-- PPU_TICK (R112). -/
def execPpuTick (s : State) : Host.Outcome State Fault Refusal := runOp s tickPpu

/-- LineBlank (R122). -/
def execLineBlank (s : State) : Host.Outcome State Fault Refusal := runOp s (fun s => .ok (stepLineBlank s))

/-- FrameBlank (R123). -/
def execFrameBlank (s : State) : Host.Outcome State Fault Refusal := runOp s (fun s => .ok (stepFrameBlank s))

/-- Search (R114). -/
def execSearch (s : State) : Host.Outcome State Fault Refusal := runOp s (fun s => .ok (stepSearch s))

/-- Transfer (R117). -/
def execTransfer (s : State) : Host.Outcome State Fault Refusal := runOp s stepTransfer

end Sys2Proof.Machine
end

