-- ==== Sys2Proof/Machine/System.lean ====
section
/-! DEFINITION. RESET (70_reset_and_hazards.md R162), and the operation a host presents that the decoder refuses
(30_encoding.md R84). -/

namespace Sys2Proof.Machine

/-- RESET (R162), the one operation accepted while the fault register holds a code (R150). -/
def execReset (s : State) : Host.Outcome State Fault Refusal := .next (resetBlock s)

/-- A record the decoder refuses (R84): F_UNDEFINED_OP, with no other effect. -/
def undefinedOperation (s : State) : Host.Outcome State Fault Refusal := runOp s (fun _ => .error .undefinedOp)

end Sys2Proof.Machine
end

