-- ==== Sys2Proof/Machine/WaveChannel.lean ====
section
/-! DEFINITION. The wave-table audio channel: WAVE_TICK and its five steps (43_wave_channel.md). -/

namespace Sys2Proof.Machine

/-- Step 1, restart (R130). -/
def waveRestart (m : Config) (w : Wave) : Wave :=
  if restartLatch w then
    { w with
      nr34 := clearRestart w.nr34, enabled := true, idx := 0, sub := 0, div := 0,
      cur := if m.restartReloadsSample then sampleValue w 0 else w.cur }
  else w

/-- Step 3, the frequency (R132): `MASTER_RATE div (2048 − raw)`. -/
def waveFrequency (m : Config) (w : Wave) : Nat := m.masterRate / (2048 - (rawFrequency w).toNat)

/-- The threshold `T` of step 4 (R133): `MASTER_RATE div (freq · 32)`. -/
def wavePeriod (m : Config) (w : Wave) : Nat := m.masterRate / (waveFrequency m w * Config.waveSamples)

/-- An output-rate tick (R133): count it, and at the threshold advance the index and derive the sample (R134). -/
def outputTick (m : Config) (w : Wave) : Wave :=
  if wavePeriod m w ≤ w.sub + 1 then
    { w with sub := 0, idx := w.idx + 1, cur := sampleValue w (w.idx + 1) }
  else { w with sub := w.sub + 1 }

/-- Step 4, the phase (R133): an output-rate tick every `AUDIO_CLOCK_FACTOR` gated calls. -/
def waveAdvance (m : Config) (w : Wave) : Wave :=
  if m.audioClockFactor ≤ w.div + 1 then outputTick m { w with div := 0 } else { w with div := w.div + 1 }

/-- The channel after a WAVE_TICK: restart, then the phase if the gate is open (R129–R133). -/
def waveAfter (m : Config) (w : Wave) : Wave :=
  let w1 := waveRestart m w
  if gateOpen w1 then waveAdvance m w1 else w1

/-- The sample a WAVE_TICK returns: silence while the gate is closed, else the current sample (R131, R135). -/
def waveSample (m : Config) (w : Wave) : Sample :=
  if gateOpen (waveRestart m w) then (waveAfter m w).cur else 0

/-- WAVE_TICK's effect (R129): the sample is recorded as an event and returned. -/
def tickWave (s : State) : State :=
  ((s.setW (waveAfter s.cfg s.w)).emit (.sample (waveSample s.cfg s.w))).setResult
    (.sample (waveSample s.cfg s.w))

/-- WAVE_TICK (R129). -/
def execWaveTick (s : State) : Host.Outcome State Fault Refusal := runOp s (fun s => .ok (tickWave s))

end Sys2Proof.Machine
end

