-- ==== Sys2Proof/Machine/Dispatch.lean ====
section
/-! DEFINITION. One arm per constructor of Instr. -/

namespace Sys2Proof.Machine

def exec (i : Instr) (s : State) : Host.Outcome State Fault Refusal :=
  match i with
  | .reset => Sys2Proof.Machine.execReset s
  | .ppuTick => Sys2Proof.Machine.execPpuTick s
  | .waveTick => Sys2Proof.Machine.execWaveTick s
  | .regWrite a d => Sys2Proof.Machine.execRegWrite a d s
  | .regRead a => Sys2Proof.Machine.execRegRead a s
  | .memWrite a d => Sys2Proof.Machine.execMemWrite a d s
  | .fStart ma da off line sgn => Sys2Proof.Machine.execFStart ma da off line sgn s
  | .fFetchSprite oam x off line => Sys2Proof.Machine.execFFetchSprite oam x off line s
  | .fTick => Sys2Proof.Machine.execFTick s
  | .qClear => Sys2Proof.Machine.execQClear s
  | .qPush8 c => Sys2Proof.Machine.execQPush8 c s
  | .qPop => Sys2Proof.Machine.execQPop s
  | .qMix offset pixel behind => Sys2Proof.Machine.execQMix offset pixel behind s
  | .qSize => Sys2Proof.Machine.execQSize s
  | .readTileId => Sys2Proof.Machine.execReadTileId s
  | .readTileData0 => Sys2Proof.Machine.execReadTileData0 s
  | .readTileData1 => Sys2Proof.Machine.execReadTileData1 s
  | .pushToFifo => Sys2Proof.Machine.execPushToFifo s
  | .readSpriteId => Sys2Proof.Machine.execReadSpriteId s
  | .readSpriteFlags => Sys2Proof.Machine.execReadSpriteFlags s
  | .readSpriteData0 => Sys2Proof.Machine.execReadSpriteData0 s
  | .readSpriteData1 => Sys2Proof.Machine.execReadSpriteData1 s
  | .mixInFifo => Sys2Proof.Machine.execMixInFifo s
  | .lineBlank => Sys2Proof.Machine.execLineBlank s
  | .frameBlank => Sys2Proof.Machine.execFrameBlank s
  | .search => Sys2Proof.Machine.execSearch s
  | .transfer => Sys2Proof.Machine.execTransfer s
  | .lcdc acc => Sys2Proof.Machine.execLcdc acc s
  | .ly acc => Sys2Proof.Machine.execLy acc s
  | .lyc acc => Sys2Proof.Machine.execLyc acc s
  | .nr30 acc => Sys2Proof.Machine.execNr30 acc s
  | .nr31 acc => Sys2Proof.Machine.execNr31 acc s
  | .nr32 acc => Sys2Proof.Machine.execNr32 acc s
  | .nr33 acc => Sys2Proof.Machine.execNr33 acc s
  | .nr34 acc => Sys2Proof.Machine.execNr34 acc s
  | .waveTable k acc => Sys2Proof.Machine.execWaveTable k acc s

end Sys2Proof.Machine
end

