-- ==== Sys2Proof/Machine/Step.lean ====
section
/-! DEFINITION. One step: the host presents the next record of its script and the machine performs that one operation
(R5, R67). -/

namespace Sys2Proof.Machine

/-- One step. An admitted configuration is a condition on the whole run (R8). The record at the front of the script is
taken off it and performed; one the decoder refuses raises F_UNDEFINED_OP (R84). -/
def step (s : State) : Host.Outcome State Fault Refusal :=
  if s.cfg.admitted then
    match decode s.script with
    | .record i rest => exec i (s.setScript rest)
    | .undefined _ rest => undefinedOperation (s.setScript rest)
    | .truncated => .fault .truncatedRecord
    | .empty => .refused .noOperation
  else .refused .configNotAdmitted

/-- The bytes put at the front of the script in place of the same number of old ones. -/
def State.overlayScript (s : State) (bytes : List Byte) : State :=
  s.setScript (bytes ++ s.script.drop bytes.length)

/-- `s` with the instruction of a table word as the very next one (log 10). An OP8 record is laid at the front of the
script, operand bytes 0. A REG16 row runs inside REG_READ, so REG_READ of the address is laid there. An FST4 row runs
inside F_TICK when `f.state` holds its code, the fetcher is enabled and the tick qualifies; a MODE2 row runs inside
PPU_TICK when `ppu.mode` holds its code and the tick is a controller step. -/
def State.withFetchWord (s : State) (nbits w : Nat) : State :=
  if nbits = 2 then
    (s.setPpu { s.ppu with mode := Mode.ofCode (BitVec.ofNat 2 w), div := s.cfg.ppuClockFactor - 1 }).overlayScript
      [Op8.ppuTick.code]
  else if nbits = 4 ∨ nbits = 8 ∧ fstRowOfByte w = true then
    (s.setF { s.f with
      state := BitVec.ofNat 4 w, enabled := true, div := Config.fetchClockFactor - 1 }).overlayScript
      [Op8.fTick.code]
  else if nbits = 16 then
    s.overlayScript [Op8.regRead.code, highByte (BitVec.ofNat 16 w), lowByte (BitVec.ofNat 16 w)]
  else s.overlayScript (wordBytes longestRecord (w % 2 ^ nbits))

end Sys2Proof.Machine
end

