-- ==== Sys2Proof/Machine/Script.lean ====
section
/-! DEFINITION. The host's side: assembling a script from its text (30_encoding.md R88, R89), loading it, and running a
list of operations one after the other. -/

namespace Sys2Proof.Machine

/-! ### The script's text (R88) -/

/-- A token of an operand list. -/
inductive Token where
  | num (n : Nat)
  | comma
  | open
  | close
deriving DecidableEq, Repr

/-- The value of a digit in a base up to 16 (R9). -/
def digitValue (base : Nat) (c : Char) : Option Nat :=
  let n := c.toNat
  let v :=
    if 48 ≤ n ∧ n ≤ 57 then n - 48
    else if 65 ≤ n ∧ n ≤ 70 then n - 55
    else if 97 ≤ n ∧ n ≤ 102 then n - 87
    else 99
  if v < base then some v else none

/-- Digits in a base, most significant first (R9). -/
def parseDigits (base acc : Nat) (cs : List Char) : Option Nat :=
  match cs with
  | [] => some acc
  | c :: rest =>
    match digitValue base c with
    | some v => parseDigits base (acc * base + v) rest
    | none => none

/-- A number: decimal unless written `0x` or `0b` (R9). -/
def parseNumber (cs : List Char) : Option Nat :=
  match cs with
  | '0' :: 'x' :: d :: ds => parseDigits 16 0 (d :: ds)
  | '0' :: 'b' :: d :: ds => parseDigits 2 0 (d :: ds)
  | d :: ds => parseDigits 10 0 (d :: ds)
  | [] => none

/-- Put the number written so far, if any, in front of the tokens after it. -/
def closeNumber (sofar : List Char) (rest : Option (List Token)) : Option (List Token) :=
  match sofar, rest with
  | [], r => r
  | cs, some ts => (parseNumber cs.reverse).map (fun n => .num n :: ts)
  | _, none => none

/-- The tokens of an operand list; `sofar` holds the number being read, last digit first. -/
def tokens (sofar cs : List Char) : Option (List Token) :=
  match cs with
  | [] => closeNumber sofar (some [])
  | c :: rest =>
    if c = ',' then closeNumber sofar ((tokens [] rest).map (Token.comma :: ·))
    else if c = '[' then closeNumber sofar ((tokens [] rest).map (Token.open :: ·))
    else if c = ']' then closeNumber sofar ((tokens [] rest).map (Token.close :: ·))
    else if c = ' ' ∨ c = '\t' then closeNumber sofar (tokens [] rest)
    else tokens (c :: sofar) rest

/-- The numbers of a bracketed list, after its opening bracket; the list must end the operands. -/
def listItems (ts : List Token) : Option (List Nat) :=
  match ts with
  | [.num n, .close] => some [n]
  | .num n :: .comma :: rest => (listItems rest).map (n :: ·)
  | _ => none

/-- A number that fits in `w` bits. -/
def field (w n : Nat) : Option (BitVec w) := if n < 2 ^ w then some (BitVec.ofNat w n) else none

/-- A one-bit operand. -/
def bitField (n : Nat) : Option Bool := if n = 0 then some false else if n = 1 then some true else none

/-- The numbers of a list, each of which must fit in `w` bits. -/
def fields (w : Nat) (ns : List Nat) : Option (List (BitVec w)) :=
  match ns with
  | [] => some []
  | n :: rest =>
    match field w n, fields w rest with
    | some v, some vs => some (v :: vs)
    | _, _ => none

/-- Eight colours as lanes. -/
def lanesOf (cs : List Colour) : Option Lanes :=
  match cs with
  | [c0, c1, c2, c3, c4, c5, c6, c7] => some ⟨c0, c1, c2, c3, c4, c5, c6, c7⟩
  | _ => none

/-- The operations of one line, its mnemonic and operands given (R88, R89); nothing if the line is none of the script
language. -/
def assembleOperation (m : Config) (mnemonic : String) (ts : List Token) : Option (List Instr) :=
  match mnemonic, ts with
  | "RESET", [] => some [.reset]
  | "PPU_TICK", [] => some [.ppuTick]
  | "WAVE_TICK", [] => some [.waveTick]
  | "F_TICK", [] => some [.fTick]
  | "Q_CLEAR", [] => some [.qClear]
  | "Q_POP", [] => some [.qPop]
  | "Q_SIZE", [] => some [.qSize]
  | "REG_WRITE", [.num a, .comma, .num d] => do
    let a ← field 16 a
    let d ← field 8 d
    some [.regWrite a d]
  | "REG_READ", [.num a] => do
    let a ← field 16 a
    some [.regRead a]
  | "MEM_WRITE", [.num a, .comma, .num d] => do
    let a ← field 16 a
    let d ← field 8 d
    some [.memWrite a d]
  | "F_START", [.num ma, .comma, .num da, .comma, .num off, .comma, .num line, .comma, .num sgn] => do
    let ma ← field 16 ma
    let da ← field 16 da
    let off ← field 5 off
    let line ← field 3 line
    let sgn ← bitField sgn
    some [.fStart ma da off line sgn]
  | "F_FETCH_SPRITE", [.num oam, .comma, .num x, .comma, .num off, .comma, .num line] => do
    let oam ← field 6 oam
    let x ← field 8 x
    let off ← field 3 off
    let line ← field 3 line
    if oam.toNat ≤ 39 then some [.fFetchSprite oam x off line] else none
  | "Q_PUSH8", .open :: rest => do
    let ns ← listItems rest
    let cs ← fields 2 ns
    let c ← lanesOf cs
    some [.qPush8 c]
  | "Q_MIX", [.num offset, .comma, .num pixel, .comma, .num behind] => do
    let offset ← field 4 offset
    let pixel ← field 2 pixel
    let behind ← bitField behind
    some [.qMix offset pixel behind]
  | "PULSE", [] => some (Pseudo.pulse.expand m)
  | "PULSES", [.num n] => some ((Pseudo.pulses n).expand m)
  | "PPU_TICKS", [.num n] => some ((Pseudo.ppuTicks n).expand m)
  | "PPU_STEPS", [.num n] => some ((Pseudo.ppuSteps n).expand m)
  | "WAVE_TICKS", [.num n] => some ((Pseudo.waveTicks n).expand m)
  | "MEM_FILL", [.num a, .comma, .num n, .comma, .num d] => do
    let a ← field 16 a
    let d ← field 8 d
    some ((Pseudo.memFill a n d).expand m)
  | "MEM_BYTES", .num a :: .comma :: .open :: rest => do
    let a ← field 16 a
    let ns ← listItems rest
    let ds ← fields 8 ns
    some ((Pseudo.memBytes a ds).expand m)
  | "REG_BYTES", .num a :: .comma :: .open :: rest => do
    let a ← field 16 a
    let ns ← listItems rest
    let ds ← fields 8 ns
    some ((Pseudo.regBytes a ds).expand m)
  | _, _ => none

/-- A blank of the script's text. -/
def isBlank (c : Char) : Bool := c == ' ' || c == '\t'

/-- One line: `MNEMONIC operand, operand ; comment` (R88). A blank line is no operation. -/
def assembleLine (m : Config) (line : List Char) : Option (List Instr) :=
  let code := (line.takeWhile (fun c => c != ';')).dropWhile isBlank
  let mnemonic := code.takeWhile (fun c => !isBlank c)
  match mnemonic with
  | [] => some []
  | _ :: _ =>
    match tokens [] (code.dropWhile (fun c => !isBlank c)) with
    | some ts => assembleOperation m (String.ofList mnemonic) ts
    | none => none

/-- A script, one line after the other (R88). -/
def assemble (m : Config) (lines : List (List Char)) : Option (List Instr) :=
  match lines with
  | [] => some []
  | l :: ls =>
    match assembleLine m l, assemble m ls with
    | some is, some rest => some (is ++ rest)
    | _, _ => none

/-! ### Loading and running -/

/-- Hand the machine a host script (log 1). -/
def State.load (s : State) (bytes : List Byte) : State := s.setScript bytes

/-- Perform operations one after the other, stopping where one stops. -/
def execAll (is : List Instr) (s : State) : Host.Outcome State Fault Refusal :=
  match is with
  | [] => .next s
  | i :: rest =>
    match exec i s with
    | .next t => execAll rest t
    | .fault r => .fault r
    | .refused r => .refused r

end Sys2Proof.Machine
end

