-- ==== Sys2Proof/Safety.lean ====
section
/-! DEFINITION. The invariant of the machine: the ranges and the agreements between fields that the spec gives its
registers (R18–R25, R40, R41, R90, R157), and the canonical form of memory. -/

namespace Sys2Proof.Machine

/-- The controller's counters: R41, R24, R25, R157, and what R114, R117, R122 and R123 make of them in each mode. -/
abbrev PpuInv (m : Config) (p : Ppu) : Prop :=
  p.div < m.ppuClockFactor ∧ p.ly.toNat ≤ 153 ∧ p.x.toNat ≤ 160
    ∧ (p.mode = .transfer → p.x.toNat < 160)
    ∧ (p.mode = .frameBlank → 144 ≤ p.ly.toNat)
    ∧ (p.mode ≠ .frameBlank → p.ly.toNat ≤ 143)
    ∧ (p.mode = .search → p.lineTick < Config.searchSteps)

/-- The visible-sprite buffer (R40): at most `MAX_SPRITES` entries, in ascending OAM order, of slots 0..39; during
Search only slots already examined. -/
abbrev SpritesInv (m : Config) (p : Ppu) : Prop :=
  p.sprites.length ≤ m.maxSprites
    ∧ p.sprites.Pairwise (fun e e' => e.oam.toNat < e'.oam.toNat)
    ∧ (∀ e ∈ p.sprites, e.oam.toNat ≤ 39)
    ∧ (p.mode = .search → 0 < p.lineTick → ∀ e ∈ p.sprites, e.oam.toNat < p.lineTick)

/-- The fetcher: no reserved state code (R85), a background state saved (R97), `spr_oam` in 0..39 (R20), and the divider
in its range (R41). -/
abbrev FetcherInv (f : Fetcher) : Prop :=
  f.state.toNat ≤ 8 ∧ f.old.toNat ≤ 3 ∧ f.sprOam.toNat ≤ 39 ∧ f.div < Config.fetchClockFactor

/-- The invariant of the machine. `f.enabled` holds throughout Transfer (R119); the queue never exceeds its capacity
(R90); the channel's divider stays in its range (R41). -/
abbrev State.Inv (s : State) : Prop :=
  s.cfg.admitted = true
    ∧ PpuInv s.cfg s.ppu ∧ SpritesInv s.cfg s.ppu ∧ FetcherInv s.f
    ∧ (s.ppu.mode = .transfer → s.f.enabled = true)
    ∧ s.q.length ≤ Config.queueCapacity
    ∧ s.w.div < s.cfg.audioClockFactor
    ∧ Memory.wf s.mem = true

/-- A safe state: the fault register is clear, so the next operation is not refused (R43, R150). -/
abbrev State.Safe (s : State) : Prop := s.fault = none

/-- `writePixel` replaced by `blank`, every other event kept: what R128 says of the run with the display off. -/
def blanked (e : Event) : Event :=
  match e with
  | .writePixel _ => .blank
  | .blank => .blank
  | .endOfLine => .endOfLine
  | .endOfFrame => .endOfFrame
  | .sample v => .sample v
  | .regRead a v => .regRead a v

/-- The same state with LCDC bit 7, display-on, clear. -/
def State.displayOff (s : State) : State := s.setPpu { s.ppu with lcdc := s.ppu.lcdc &&& 0x7F }

end Sys2Proof.Machine
end

