-- ==== Sys2Proof/Certificates/Slice0/Obligations.lean ====
section
/-! DEFINITION. The statements for the provers. Each docstring names the rules of spec/ it formalises. An equation
`exec i s = .next { s with … }` states the frame as well: what it does not name is unchanged, every byte of memory
included. -/

open Sys2Proof Sys2Proof.Machine

/-! ### Decoding, encoding, and the step -/

/-- R5, R67: a step performs the record at the front of the script, and takes just that record off the script. -/
def Obligations.StepRunsDecodedInstruction : Prop :=
  ∀ (s : State) (i : Instr) (rest : List Byte),
    s.cfg.admitted = true → decode s.script = .record i rest → step s = exec i { s with script := rest }

/-- R84: a reserved opcode, a non-zero must-be-zero bit of F_START, F_FETCH_SPRITE or Q_MIX, and `oam > 39` raise
F_UNDEFINED_OP and do nothing else. How much of the script such a record uses up is the model's choice (log 3) and is
left open here. -/
def Obligations.UndefinedRecordsFault : Prop :=
  (∀ (s : State) (b : Byte) (rest : List Byte),
      s.cfg.admitted = true → s.fault = none → s.script = b :: rest →
      b.toNat ∉ [0x00, 0x01, 0x02, 0x03, 0x04, 0x05, 0x10, 0x11, 0x12, 0x20, 0x21, 0x22, 0x23, 0x24] →
      ∃ rest', step s = .next { s with script := rest', fault := some .undefinedOp })
  ∧ (∀ (s : State) (mh ml th tl b4 b5 : Byte) (rest : List Byte),
      s.cfg.admitted = true → s.fault = none → s.script = 0x10 :: mh :: ml :: th :: tl :: b4 :: b5 :: rest →
      2 ≤ b5.toNat →
      ∃ rest', step s = .next { s with script := rest', fault := some .undefinedOp })
  ∧ (∀ (s : State) (b1 b2 b3 : Byte) (rest : List Byte),
      s.cfg.admitted = true → s.fault = none → s.script = 0x11 :: b1 :: b2 :: b3 :: rest →
      39 < b1.toNat ∨ 64 ≤ b3.toNat →
      ∃ rest', step s = .next { s with script := rest', fault := some .undefinedOp })
  ∧ (∀ (s : State) (b1 : Byte) (rest : List Byte),
      s.cfg.admitted = true → s.fault = none → s.script = 0x23 :: b1 :: rest →
      b1.getLsbD 3 = true →
      ∃ rest', step s = .next { s with script := rest', fault := some .undefinedOp })

/-- R8: a configuration that is not admitted is refused before any step. That an empty script is refused and a script that
ends inside a record faults is the model's choice (log 1, log 2). -/
def Obligations.StepStopsWithoutOperation : Prop :=
  (∀ s : State, s.cfg.admitted = false → step s = .refused .configNotAdmitted)
  ∧ (∀ s : State, s.cfg.admitted = true → s.script = [] → step s = .refused .noOperation)
  ∧ (∀ s : State, s.cfg.admitted = true → decode s.script = .truncated → step s = .fault .truncatedRecord)

/-- R66, R67: the record of a well-formed instruction decodes to it, with every operand at every value, and the decoder
leaves the bytes after it. -/
def Obligations.EncodeThenDecodeRecord : Prop :=
  ∀ (i : Instr) (bytes rest : List Byte),
    i.wellFormed = true → encodeBytes i = some bytes → decode (bytes ++ rest) = .record i rest

/-- R64–R67, R84: every record the decoder accepts is the record of a well-formed instruction, so that no two byte
strings mean the same instruction. -/
def Obligations.DecodeThenEncodeRecord : Prop :=
  ∀ (bs : List Byte) (i : Instr) (rest : List Byte),
    decode bs = .record i rest →
      i.wellFormed = true ∧ ∃ bytes, encodeBytes i = some bytes ∧ bs = bytes ++ rest

/-- R65, R68, R69, R82: the word of every row of the opcode table, in the row's own format, decodes to it, under every
admitted configuration. -/
def Obligations.EncodeThenDecodeRow : Prop :=
  ∀ (m : Config) (i : Instr),
    m.admitted = true → i.wellFormed = true → decodeCode m (encode m i) = some i

/-- R65, R66, R68, R69, R82: words written out from the tables of 30_encoding.md and from 95_test_vectors.md. -/
def Obligations.SpecWordsDecode : Prop :=
  decode [0x10, 0x98, 0x00, 0x80, 0x00, 0x00, 0x00] = .record (.fStart 0x9800 0x8000 0 0 false) []
  ∧ decode [0x11, 0x00, 0x08, 0x00] = .record (.fFetchSprite 0 8 0 0) []
  ∧ decode [0x21, 0xE5, 0x00] = .record (.qPush8 ⟨3, 2, 1, 1, 0, 0, 0, 0⟩) []
  ∧ decode [0x23, 0x25] = .record (.qMix 2 1 true) []
  ∧ decode [0x03, 0xFF, 0x40, 0x91] = .record (.regWrite 0xFF40 0x91) []
  ∧ decode [0x06] = .undefined .reservedOpcode []
  ∧ decodeCode Config.default (.fst4 0b1000) = some .mixInFifo
  ∧ decodeCode Config.default (.fst4 0b1001) = none
  ∧ decodeCode Config.default (.mode2 0b10) = some .search
  ∧ decodeCode Config.default (.reg16 0xFF3F .read) = some (.waveTable 15 .read)

/-- R82, R87: under an admitted configuration an address selects a register exactly when it is that register's. -/
def Obligations.RegisterDispatchTable : Prop :=
  ∀ (m : Config) (a : Addr) (r : RegName),
    m.admitted = true → (RegName.ofAddr m a = some r ↔ a = r.addr m)

/-! ### Faults and reset -/

/-- R85, R100: a fetch step that finds a reserved code 9..15 in `f.state` raises F_BAD_STATE and does nothing else. -/
def Obligations.ReservedFetchStateFaults : Prop :=
  ∀ s : State,
    s.fault = none → s.f.enabled = true → 1 ≤ s.f.div → 9 ≤ s.f.state.toNat →
      exec .fTick s = .next { s with fault := some .badState }

/-- R43: while the fault register holds a code every operation but RESET changes nothing, a record the decoder refuses
included; RESET clears it. -/
def Obligations.FaultRefusesAllButReset : Prop :=
  ∀ (s : State) (c : FaultCode),
    s.fault = some c →
      (∀ i : Instr, i ≠ .reset → exec i s = .next s)
      ∧ (∀ (why : Reject) (rest : List Byte),
          s.cfg.admitted = true → decode s.script = .undefined why rest → step s = .next { s with script := rest })
      ∧ (∃ t, exec .reset s = .next t ∧ t.fault = none)

/-- R150: an operation that raises a fault has no effect but the code in the fault register. -/
def Obligations.FaultHasNoOtherEffect : Prop :=
  ∀ (i : Instr) (s t : State) (c : FaultCode),
    s.fault = none → exec i s = .next t → t.fault = some c → t = { s with fault := some c }

/-- R149, last column: from a state that meets the invariant, PPU_TICK completes and raises no fault. -/
def Obligations.PpuTickRaisesNoFault : Prop :=
  ∀ s : State, s.Inv → s.fault = none → ∃ t, exec .ppuTick s = .next t ∧ t.fault = none

/-- R104, R109, R149: the gates of PushToFIFO and MixInFIFO make F_QUEUE_OVERFLOW and F_MIX_RANGE unreachable from F_TICK,
in every state; a reserved state code is its only fault. -/
def Obligations.FetcherTickFaultsOnlyOnReservedState : Prop :=
  ∀ s : State,
    s.fault = none →
      ∃ t, exec .fTick s = .next t
        ∧ (t.fault = none ∨ (t.fault = some .badState ∧ 9 ≤ s.f.state.toNat))

/-- R151, last bullet: WAVE_TICK, REG_WRITE, REG_READ, MEM_WRITE and RESET raise no fault. -/
def Obligations.HostAccessesRaiseNoFault : Prop :=
  ∀ (s : State) (i : Instr) (a : Addr) (d : Byte),
    s.fault = none → i ∈ [.waveTick, .regWrite a d, .regRead a, .memWrite a d, .reset] →
      ∃ t, exec i s = .next t ∧ t.fault = none

/-- R162, R164: RESET puts every part of the block at its reset value from any state, a faulted one too, and touches
neither `M` nor the trace nor the configuration. The wave table's bytes are draws: nothing is said of them. The
model's own count of draws (log 5) is left open. -/
def Obligations.ResetEstablishesResetValues : Prop :=
  ∀ s : State, ∃ (table : Vector Byte 16) (draws : Nat),
    exec .reset s = .next
      { s with
        ppu := { div := 0, mode := .search, lineTick := 0, x := 0, ly := 0, lcdc := 0, lyc := 0, sprites := [] }
        f := { mapAddr := 0, dataAddr := 0, tileOffset := 0, tileLine := 0, signedId := false, tileId := 0,
               data0 := 0, data1 := 0, sprOam := 0, sprX := 0, sprOffset := 0, sprLine := 0, sprId := 0,
               sprFlags := 0, sprData0 := 0, sprData1 := 0, state := 0b0000, old := 0b0000, enabled := false,
               div := 0 }
        q := []
        w := { nr30 := 0, nr31 := 0, nr32 := 0, nr33 := 0, nr34 := 0, table := table, enabled := false,
               div := 0, sub := 0, idx := 0, cur := 0 }
        fault := none
        draws := draws }

/-- R163: the state at power-on holds every reset value the spec gives. -/
def Obligations.PowerOnValues : Prop :=
  State.reset.ppu =
      { div := 0, mode := .search, lineTick := 0, x := 0, ly := 0, lcdc := 0, lyc := 0, sprites := [] }
  ∧ State.reset.f =
      { mapAddr := 0, dataAddr := 0, tileOffset := 0, tileLine := 0, signedId := false, tileId := 0, data0 := 0,
        data1 := 0, sprOam := 0, sprX := 0, sprOffset := 0, sprLine := 0, sprId := 0, sprFlags := 0, sprData0 := 0,
        sprData1 := 0, state := 0b0000, old := 0b0000, enabled := false, div := 0 }
  ∧ State.reset.q = []
  ∧ State.reset.w.nr30 = 0 ∧ State.reset.w.nr31 = 0 ∧ State.reset.w.nr32 = 0 ∧ State.reset.w.nr33 = 0
  ∧ State.reset.w.nr34 = 0 ∧ State.reset.w.enabled = false
  ∧ State.reset.w.div = 0 ∧ State.reset.w.sub = 0 ∧ State.reset.w.idx = 0 ∧ State.reset.w.cur = 0
  ∧ State.reset.fault = none ∧ coincidence State.reset = true

/-- The power-on state meets the invariant (R163 against R18–R25, R40, R41, R90, R157). -/
def Obligations.PowerOnMeetsInvariant : Prop := State.reset.Inv

/-- R90, R41, R85, R24, R25, R40, R157: every step keeps the invariant, whatever operation the host presents: the queue
within its capacity, the accumulators in their ranges, no reserved fetcher state, LY within the mode's lines, at most
`MAX_SPRITES` sprites in ascending OAM order, the fetcher enabled throughout Transfer, and memory in canonical form. -/
def Obligations.StepKeepsInvariant : Prop :=
  ∀ s t : State, s.Inv → step s = .next t → t.Inv

/-- R45: no step takes an event from the trace or changes one; RESET does not clear it. -/
def Obligations.TraceOnlyGrows : Prop :=
  ∀ s t : State, step s = .next t → ∃ es, t.trace = s.trace ++ es

/-- R164, third bullet: the configuration is fixed for the run. -/
def Obligations.ConfigurationIsFixed : Prop :=
  ∀ s t : State, step s = .next t → t.cfg = s.cfg

/-- R44, R53, R55: only MEM_WRITE writes `M`; every other instruction leaves every byte as it reads. -/
def Obligations.OnlyMemWriteChangesMemory : Prop :=
  ∀ (i : Instr) (s t : State),
    (∀ (a : Addr) (d : Byte), i ≠ .memWrite a d) → exec i s = .next t → t.mem = s.mem

/-- R142, R56: MEM_WRITE stores its byte at its address, leaves every other address, and changes nothing else. -/
def Obligations.MemWriteStoresOneByte : Prop :=
  (∀ (ah al d : Byte) (rest : List Byte),
      decode (0x05 :: ah :: al :: d :: rest) = .record (.memWrite (joinBytes ah al) d) rest)
  ∧ (∀ (s : State) (a : Addr) (d : Byte),
    s.fault = none → Memory.wf s.mem = true →
      ∃ m, exec (.memWrite a d) s = .next { s with mem := m }
        ∧ Memory.read m a.toNat = d
        ∧ (∀ b : Nat, b ≠ a.toNat → Memory.read m b = Memory.read s.mem b))

/-! ### The Pixel Queue -/

/-- R92: Q_CLEAR, opcode 0x20, empties the queue, an empty one too; F_START does the same. -/
def Obligations.QueueClearEmpties : Prop :=
  (∀ s : State, s.fault = none → exec .qClear s = .next { s with q := [] })
  ∧ (∀ (s : State) (ma da : Addr) (off : BitVec 5) (line : BitVec 3) (sgn : Bool),
      s.fault = none → ∃ t, exec (.fStart ma da off line sgn) s = .next t ∧ t.q = [])
  ∧ (∀ rest : List Byte, decode (0x20 :: rest) = .record .qClear rest)

/-- R93: Q_PUSH8, opcode 0x21, appends the lanes, lane 0 first, at the tail of a queue of at most 8, and otherwise raises
F_QUEUE_OVERFLOW with the queue unchanged. -/
def Obligations.QueuePushAppendsBatch : Prop :=
  (∀ (s : State) (c0 c1 c2 c3 c4 c5 c6 c7 : Colour),
      s.fault = none → s.q.length ≤ 8 →
      exec (.qPush8 ⟨c0, c1, c2, c3, c4, c5, c6, c7⟩) s
        = .next { s with q := s.q ++ [c0, c1, c2, c3, c4, c5, c6, c7] })
  ∧ (∀ (s : State) (c : Lanes),
      s.fault = none → 8 < s.q.length →
      exec (.qPush8 c) s = .next { s with fault := some .queueOverflow })
  ∧ (∀ (ph pl : Byte) (rest : List Byte), ∃ c : Lanes, decode (0x21 :: ph :: pl :: rest) = .record (.qPush8 c) rest)

/-- R94: Q_POP, opcode 0x22, removes and returns the head; on an empty queue it returns `Empty` and changes nothing. -/
def Obligations.QueuePopReturnsHead : Prop :=
  (∀ (s : State) (c : Colour) (rest : List Colour),
      s.fault = none → s.q = c :: rest → exec .qPop s = .next { s with q := rest, result := .colour c })
  ∧ (∀ s : State, s.fault = none → s.q = [] → exec .qPop s = .next { s with result := .empty })
  ∧ (∀ rest : List Byte, decode (0x22 :: rest) = .record .qPop rest)

/-- R95: Q_MIX, opcode 0x23, at an offset within a queue of at least 8 changes that element alone: not for a transparent pixel, not for
a sprite behind a non-zero element, else to the pixel. Otherwise it raises F_MIX_RANGE with the queue unchanged. -/
def Obligations.QueueMixCombinesOnePixel : Prop :=
  (∀ (b : Byte) (rest : List Byte), b.getLsbD 3 = false →
      ∃ (offset : BitVec 4) (pixel : Colour) (behind : Bool),
        decode (0x23 :: b :: rest) = .record (.qMix offset pixel behind) rest)
  ∧ (∀ (s : State) (offset : BitVec 4) (pixel : Colour) (behind : Bool) (before after : List Colour) (under : Colour),
      s.fault = none → s.q = before ++ under :: after → before.length = offset.toNat → 8 ≤ s.q.length →
      (pixel = 0 → exec (.qMix offset pixel behind) s = .next s)
      ∧ (pixel ≠ 0 → behind = true → under ≠ 0 → exec (.qMix offset pixel behind) s = .next s)
      ∧ (pixel ≠ 0 → (behind = false ∨ under = 0) →
          exec (.qMix offset pixel behind) s = .next { s with q := before ++ pixel :: after }))
  ∧ (∀ (s : State) (offset : BitVec 4) (pixel : Colour) (behind : Bool),
      s.fault = none → s.q.length < 8 ∨ s.q.length ≤ offset.toNat →
      exec (.qMix offset pixel behind) s = .next { s with fault := some .mixRange })

/-- R96: Q_SIZE, opcode 0x24, returns the number of elements and changes nothing; after Q_CLEAR and one Q_PUSH8 it
returns 8. -/
def Obligations.QueueSizeCounts : Prop :=
  (∀ s : State, s.fault = none → exec .qSize s = .next { s with result := .size s.q.length })
  ∧ (∀ (s : State) (c : Lanes),
      s.fault = none → ∃ t, execAll [.qClear, .qPush8 c, .qSize] s = .next t ∧ t.result = .size 8)
  ∧ (∀ rest : List Byte, decode (0x24 :: rest) = .record .qSize rest)

/-! ### The Pixel Fetch State Machine -/

/-- R98: F_START, opcode 0x10, sets the context, goes to ReadTileID, clears the divider and the queue and enables the fetcher, whatever
the fetcher was doing; it reads no memory and leaves `f.old` and the data registers. -/
def Obligations.StartBeginsBackgroundFetch : Prop :=
  (∀ (s : State) (ma da : Addr) (off : BitVec 5) (line : BitVec 3) (sgn : Bool),
    s.fault = none →
      exec (.fStart ma da off line sgn) s = .next
        { s with
          q := []
          f := { s.f with mapAddr := ma, dataAddr := da, tileOffset := off, tileLine := line, signedId := sgn,
                          state := 0b0000, div := 0, enabled := true } })
  ∧ (∀ (mh ml th tl b4 b5 : Byte) (rest : List Byte), b5.toNat < 2 →
      ∃ (ma da : Addr) (off : BitVec 5) (line : BitVec 3) (sgn : Bool),
        decode (0x10 :: mh :: ml :: th :: tl :: b4 :: b5 :: rest) = .record (.fStart ma da off line sgn) rest)

/-- R99, R151: F_FETCH_SPRITE, opcode 0x11, saves a background state and switches to ReadSpriteID; while disabled it raises code 1,
whatever the state, and on the sprite path code 2. -/
def Obligations.FetchSpritePreempts : Prop :=
  (∀ (b1 b2 b3 : Byte) (rest : List Byte), b1.toNat ≤ 39 → b3.toNat < 64 →
      ∃ (oam : BitVec 6) (x : Byte) (off line : BitVec 3),
        decode (0x11 :: b1 :: b2 :: b3 :: rest) = .record (.fFetchSprite oam x off line) rest)
  ∧ (∀ (s : State) (oam : BitVec 6) (x : Byte) (off line : BitVec 3),
    s.fault = none →
      (s.f.enabled = false →
        exec (.fFetchSprite oam x off line) s = .next { s with fault := some .spriteWhileDisabled })
      ∧ (s.f.enabled = true → 4 ≤ s.f.state.toNat → s.f.state.toNat ≤ 8 →
        exec (.fFetchSprite oam x off line) s = .next { s with fault := some .nestedSprite })
      ∧ (s.f.enabled = true → s.f.state.toNat ≤ 3 →
        exec (.fFetchSprite oam x off line) s = .next
          { s with f := { s.f with old := s.f.state, state := 0b0100, sprOam := oam, sprX := x, sprOffset := off,
                                   sprLine := line } }))

/-- R100: F_TICK, opcode 0x12, does nothing while disabled; else it counts, and at every second call performs the fetch
step that `f.state` names, with the divider at 0; a reserved code raises F_BAD_STATE. -/
def Obligations.FetcherTickDivides : Prop :=
  (∀ rest : List Byte, decode (0x12 :: rest) = .record .fTick rest)
  ∧ (∀ s : State, s.fault = none → s.f.enabled = false → exec .fTick s = .next s)
  ∧ (∀ s : State, s.fault = none → s.f.enabled = true → s.f.div = 0 →
      exec .fTick s = .next { s with f := { s.f with div := 1 } })
  ∧ (∀ (s : State) (st : FetchState), s.fault = none → s.f.enabled = true → 1 ≤ s.f.div → s.f.state = st.code →
      ∃ t, exec .fTick s = .next t ∧ t.fault = none
        ∧ exec st.instr { s with f := { s.f with div := 0 } } = .next t)
  ∧ (∀ s : State, s.fault = none → s.f.enabled = true → 1 ≤ s.f.div → 9 ≤ s.f.state.toNat →
      exec .fTick s = .next { s with fault := some .badState })

/-- R101, R78: ReadTileID reads the map entry at map base plus tile offset, mod 2^16. -/
def Obligations.ReadTileIdReadsMap : Prop :=
  (∀ m : Config, decodeCode m (.fst4 0b0000) = some .readTileId)
  ∧ (∀ s : State,
    s.fault = none →
      exec .readTileId s = .next
        { s with
          f := { s.f with
            tileId := Memory.read s.mem ((s.f.mapAddr.toNat + s.f.tileOffset.toNat) % 65536)
            state := 0b0001 } })

/-- R102, R103, R77, R79: the two plane reads at `data + 16·n + 2·line` and the next byte, mod 2^16, `n` the tile index
read as signed or unsigned. -/
def Obligations.ReadTileDataReadsPlanes : Prop :=
  (∀ m : Config, decodeCode m (.fst4 0b0001) = some .readTileData0)
  ∧ (∀ m : Config, decodeCode m (.fst4 0b0010) = some .readTileData1)
  ∧ (∀ (s : State) (n : Int),
    s.fault = none → n = (if s.f.signedId = true then s.f.tileId.toInt else (s.f.tileId.toNat : Int)) →
      exec .readTileData0 s = .next
        { s with
          f := { s.f with
            data0 := Memory.read s.mem
              (((s.f.dataAddr.toNat : Int) + 16 * n + 2 * (s.f.tileLine.toNat : Int)) % 65536).toNat
            state := 0b0010 } }
      ∧ exec .readTileData1 s = .next
        { s with
          f := { s.f with
            data1 := Memory.read s.mem
              (((s.f.dataAddr.toNat : Int) + 16 * n + 2 * (s.f.tileLine.toNat : Int) + 1) % 65536).toNat
            state := 0b0011 } })

/-- R104: PushToFIFO stalls with more than 8 queued; else it appends the decoded row, or colour 0 in all lanes with the
background off, advances the tile offset mod 32 and goes to ReadTileID. -/
def Obligations.PushToFifoPushesOrStalls : Prop :=
  (∀ m : Config, decodeCode m (.fst4 0b0011) = some .pushToFifo)
  ∧ (∀ s : State,
    s.fault = none →
      (8 < s.q.length → exec .pushToFifo s = .next s)
      ∧ (s.q.length ≤ 8 → s.ppu.lcdc.getLsbD 0 = true →
        exec .pushToFifo s = .next
          { s with
            q := s.q ++ (decodeRow s.f.data0 s.f.data1 false).toList
            f := { s.f with tileOffset := BitVec.ofNat 5 ((s.f.tileOffset.toNat + 1) % 32), state := 0b0000 } })
      ∧ (s.q.length ≤ 8 → s.ppu.lcdc.getLsbD 0 = false →
        exec .pushToFifo s = .next
          { s with
            q := s.q ++ [0, 0, 0, 0, 0, 0, 0, 0]
            f := { s.f with tileOffset := BitVec.ofNat 5 ((s.f.tileOffset.toNat + 1) % 32), state := 0b0000 } }))

/-- R105, R106, R81: ReadSpriteID and ReadSpriteFlags read bytes 2 and 3 of the sprite's OAM entry. -/
def Obligations.ReadSpriteEntryBytes : Prop :=
  (∀ m : Config, decodeCode m (.fst4 0b0100) = some .readSpriteId)
  ∧ (∀ m : Config, decodeCode m (.fst4 0b0101) = some .readSpriteFlags)
  ∧ (∀ s : State,
    s.fault = none →
      exec .readSpriteId s = .next
        { s with
          f := { s.f with
            sprId := Memory.read s.mem ((s.cfg.oamBase.toNat + 4 * s.f.sprOam.toNat + 2) % 65536)
            state := 0b0101 } }
      ∧ exec .readSpriteFlags s = .next
        { s with
          f := { s.f with
            sprFlags := Memory.read s.mem ((s.cfg.oamBase.toNat + 4 * s.f.sprOam.toNat + 3) % 65536)
            state := 0b0110 } })

/-- R107, R108, R80: the sprite's plane reads at `SPRITE_TILE_BASE + 16·id + 2·r` and the next byte, mod 2^16; vertical
flip (flags bit 6) makes `r` the row 7 − line. -/
def Obligations.ReadSpriteDataReadsPlanes : Prop :=
  (∀ m : Config, decodeCode m (.fst4 0b0110) = some .readSpriteData0)
  ∧ (∀ m : Config, decodeCode m (.fst4 0b0111) = some .readSpriteData1)
  ∧ (∀ (s : State) (r : Nat),
    s.fault = none → r = (if s.f.sprFlags.getLsbD 6 = true then 7 - s.f.sprLine.toNat else s.f.sprLine.toNat) →
      exec .readSpriteData0 s = .next
        { s with
          f := { s.f with
            sprData0 := Memory.read s.mem ((s.cfg.spriteTileBase.toNat + 16 * s.f.sprId.toNat + 2 * r) % 65536)
            state := 0b0111 } }
      ∧ exec .readSpriteData1 s = .next
        { s with
          f := { s.f with
            sprData1 := Memory.read s.mem ((s.cfg.spriteTileBase.toNat + 16 * s.f.sprId.toNat + 2 * r + 1) % 65536)
            state := 0b1000 } })

/-- R109, R91, R95: MixInFIFO stalls with fewer than 8 queued; else it mixes sprite lane i into element i for i = 0..7,
leaves the other elements and the length, and restores the saved state. -/
def Obligations.MixInFifoBlendsRow : Prop :=
  (∀ m : Config, decodeCode m (.fst4 0b1000) = some .mixInFifo)
  ∧ (∀ s : State, s.fault = none → s.q.length < 8 → exec .mixInFifo s = .next s)
  ∧ (∀ (s : State) (row : List Colour),
      s.fault = none → 8 ≤ s.q.length →
      row = (decodeRow s.f.sprData0 s.f.sprData1 (s.f.sprFlags.getLsbD 5)).toList →
      ∃ q' : List Colour,
        exec .mixInFifo s = .next { s with q := q', f := { s.f with state := s.f.old } }
        ∧ q'.length = s.q.length
        ∧ (∀ i, 8 ≤ i → q'.getD i 0 = s.q.getD i 0)
        ∧ (∀ i, i < 8 →
            q'.getD i 0 =
              if row.getD i 0 = 0 then s.q.getD i 0
              else if s.f.sprFlags.getLsbD 7 = true ∧ s.q.getD i 0 ≠ 0 then s.q.getD i 0
              else row.getD i 0))

/-- R75: row decode gives column `col` the high bit of the high plane's bit and the low bit of the low plane's, bit 7 the
leftmost column, in reverse under horizontal flip; with the rule's own two examples. -/
def Obligations.RowDecodeCombinesPlanes : Prop :=
  (∀ (lo hi : Byte) (hflip : Bool) (col : Nat), col < 8 →
      ((decodeRow lo hi hflip).toList.getD col 0).toNat =
        2 * (hi.getLsbD (if hflip = true then col else 7 - col)).toNat
          + (lo.getLsbD (if hflip = true then col else 7 - col)).toNat)
  ∧ (∀ (lo hi : Byte) (hflip : Bool), (decodeRow lo hi hflip).toList.length = 8)
  ∧ (decodeRow 0b10110000 0b11000000 false).toList = [3, 2, 1, 1, 0, 0, 0, 0]
  ∧ (decodeRow 0b10110000 0b11000000 true).toList = [0, 0, 0, 0, 1, 1, 2, 3]

/-- R110: from ReadTileID with the divider at 0 and at most 8 queued, eight F_TICKs are one tile: they append exactly the
8 pixels of the row and come back to ReadTileID; with more than 8 queued PushToFIFO stays where it is. After F_START
the hypotheses hold. -/
def Obligations.FetchCadence : Prop :=
  (∀ s : State,
      s.fault = none → s.f.enabled = true → s.f.div = 0 → s.f.state = 0b0000 → s.q.length ≤ 8 →
      ∃ (id d0 d1 : Byte) (n : Int) (row : List Colour),
        row.length = 8
        ∧ id = Memory.read s.mem ((s.f.mapAddr.toNat + s.f.tileOffset.toNat) % 65536)
        ∧ n = (if s.f.signedId = true then id.toInt else (id.toNat : Int))
        ∧ d0 = Memory.read s.mem
            (((s.f.dataAddr.toNat : Int) + 16 * n + 2 * (s.f.tileLine.toNat : Int)) % 65536).toNat
        ∧ d1 = Memory.read s.mem
            (((s.f.dataAddr.toNat : Int) + 16 * n + 2 * (s.f.tileLine.toNat : Int) + 1) % 65536).toNat
        ∧ (s.ppu.lcdc.getLsbD 0 = true → row = (decodeRow d0 d1 false).toList)
        ∧ (s.ppu.lcdc.getLsbD 0 = false → row = [0, 0, 0, 0, 0, 0, 0, 0])
        ∧ execAll (List.replicate 8 .fTick) s = .next
            { s with
              q := s.q ++ row
              f := { s.f with tileId := id, data0 := d0, data1 := d1,
                              tileOffset := BitVec.ofNat 5 ((s.f.tileOffset.toNat + 1) % 32) } })
  ∧ (∀ s : State,
      s.fault = none → s.f.enabled = true → s.f.div = 0 → s.f.state = 0b0011 → 8 < s.q.length →
      execAll [.fTick, .fTick] s = .next s)
  ∧ (∀ (s : State) (ma da : Addr) (off : BitVec 5) (line : BitVec 3) (sgn : Bool),
      s.fault = none →
      ∃ t, exec (.fStart ma da off line sgn) s = .next t
        ∧ t.fault = none ∧ t.f.enabled = true ∧ t.f.div = 0 ∧ t.f.state = 0b0000 ∧ t.q.length ≤ 8)

/-- R111: a sprite fetch that preempts any background state with at least 8 queued is over after five fetch steps, in the
state it interrupted, with the background registers unchanged and the queue changed by the 8 mixed lanes alone. -/
def Obligations.PreemptAndResume : Prop :=
  ∀ (s : State) (oam : BitVec 6) (x : Byte) (off line : BitVec 3),
    s.fault = none → s.f.enabled = true → s.f.div = 0 → s.f.state.toNat ≤ 3 → 8 ≤ s.q.length →
      ∃ (id flags d0 d1 : Byte) (r : Nat) (q' : List Colour),
        execAll (.fFetchSprite oam x off line :: List.replicate 10 .fTick) s = .next
          { s with
            q := q'
            f := { s.f with old := s.f.state, sprOam := oam, sprX := x, sprOffset := off, sprLine := line,
                            sprId := id, sprFlags := flags, sprData0 := d0, sprData1 := d1 } }
        ∧ id = Memory.read s.mem ((s.cfg.oamBase.toNat + 4 * oam.toNat + 2) % 65536)
        ∧ flags = Memory.read s.mem ((s.cfg.oamBase.toNat + 4 * oam.toNat + 3) % 65536)
        ∧ r = (if flags.getLsbD 6 = true then 7 - line.toNat else line.toNat)
        ∧ d0 = Memory.read s.mem ((s.cfg.spriteTileBase.toNat + 16 * id.toNat + 2 * r) % 65536)
        ∧ d1 = Memory.read s.mem ((s.cfg.spriteTileBase.toNat + 16 * id.toNat + 2 * r + 1) % 65536)
        ∧ q'.length = s.q.length
        ∧ (∀ i, 8 ≤ i → q'.getD i 0 = s.q.getD i 0)
        ∧ (∀ i, i < 8 →
            q'.getD i 0 =
              if (decodeRow d0 d1 (flags.getLsbD 5)).toList.getD i 0 = 0 then s.q.getD i 0
              else if flags.getLsbD 7 = true ∧ s.q.getD i 0 ≠ 0 then s.q.getD i 0
              else (decodeRow d0 d1 (flags.getLsbD 5)).toList.getD i 0)

/-- R97: F_TICK leaves the fetcher's state or takes one edge of the transition graph. -/
def Obligations.FetcherFollowsTransitionGraph : Prop :=
  ∀ s t : State,
    exec .fTick s = .next t →
      t.f.state = s.f.state
      ∨ (s.f.state.toNat ≤ 2 ∧ t.f.state.toNat = s.f.state.toNat + 1)
      ∨ (s.f.state.toNat = 3 ∧ t.f.state.toNat = 0)
      ∨ (4 ≤ s.f.state.toNat ∧ s.f.state.toNat ≤ 7 ∧ t.f.state.toNat = s.f.state.toNat + 1)
      ∨ (s.f.state.toNat = 8 ∧ t.f.state = s.f.old)

/-! ### The Scanline Mode Controller -/

/-- R112, R113: PPU_TICK counts pulses; at `PPU_CLOCK_FACTOR` it counts a step of the line and does the step of the
current mode. -/
def Obligations.PpuTickDivides : Prop :=
  (∀ rest : List Byte, decode (0x01 :: rest) = .record .ppuTick rest)
  ∧ (∀ s : State, s.fault = none → s.ppu.div + 1 < s.cfg.ppuClockFactor →
      exec .ppuTick s = .next { s with ppu := { s.ppu with div := s.ppu.div + 1 } })
  ∧ (∀ s : State, s.fault = none → s.cfg.ppuClockFactor ≤ s.ppu.div + 1 → s.Inv →
      ∃ t, exec .ppuTick s = .next t
        ∧ exec s.ppu.mode.instr { s with ppu := { s.ppu with div := 0, lineTick := s.ppu.lineTick + 1 } } = .next t)

/-- R114, R116, R81: a Search step before the last examines OAM slot `line_tick − 1`, clears the buffer first at slot 0,
and appends the slot if it covers the line and there is room. -/
def Obligations.SearchExaminesOneSlot : Prop :=
  ∀ (s : State) (k : Nat) (es : List SpriteEntry) (y x : Byte),
    s.fault = none → s.ppu.lineTick = k + 1 → k < 39 →
    es = (if k = 0 then [] else s.ppu.sprites) →
    y = Memory.read s.mem ((s.cfg.oamBase.toNat + 4 * k) % 65536) →
    x = Memory.read s.mem ((s.cfg.oamBase.toNat + 4 * k + 1) % 65536) →
      exec .search s = .next
        { s with
          ppu := { s.ppu with
            sprites :=
              if es.length < s.cfg.maxSprites ∧ y.toNat ≤ s.ppu.ly.toNat + 16 ∧ s.ppu.ly.toNat + 16 < y.toNat + 8 then
                es ++ [{ oam := BitVec.ofNat 6 k, y := y, x := x,
                         line := BitVec.ofNat 3 (s.ppu.ly.toNat + 16 - y.toNat), fetched := false }]
              else es } }

/-- R114, R115, R116: the 40th Search step examines slot 39, then starts the fetcher with the context of the line and
enters Transfer with `x` at 0. -/
def Obligations.SearchEntersTransfer : Prop :=
  (∀ m : Config, decodeCode m (.mode2 0b10) = some .search)
  ∧ (∀ (s : State) (y x : Byte),
    s.fault = none → s.ppu.lineTick = 40 →
    y = Memory.read s.mem ((s.cfg.oamBase.toNat + 4 * 39) % 65536) →
    x = Memory.read s.mem ((s.cfg.oamBase.toNat + 4 * 39 + 1) % 65536) →
      exec .search s = .next
          { s with
            q := []
            ppu := { s.ppu with
              sprites :=
                if s.ppu.sprites.length < s.cfg.maxSprites ∧ y.toNat ≤ s.ppu.ly.toNat + 16
                    ∧ s.ppu.ly.toNat + 16 < y.toNat + 8 then
                  s.ppu.sprites ++ [{ oam := 39, y := y, x := x,
                                      line := BitVec.ofNat 3 (s.ppu.ly.toNat + 16 - y.toNat), fetched := false }]
                else s.ppu.sprites
              x := 0
              mode := .transfer }
            f := { s.f with
              mapAddr := BitVec.ofNat 16
                ((if s.ppu.lcdc.getLsbD 3 = true then s.cfg.mapBase1 else s.cfg.mapBase0).toNat
                  + 32 * (s.ppu.ly.toNat / 8))
              dataAddr := if s.ppu.lcdc.getLsbD 4 = true then s.cfg.tileBaseUnsigned else s.cfg.tileBaseSigned
              tileOffset := 0
              tileLine := BitVec.ofNat 3 (s.ppu.ly.toNat % 8)
              signedId := !s.ppu.lcdc.getLsbD 4
              state := 0b0000
              div := 0
              enabled := true } })

/-- R117, R118, R120, R121: a Transfer step with no sprite to trigger is an F_TICK, and then nothing while the fetcher is
on the sprite path or at most 8 are queued; else it pops one pixel, emits it as `writePixel`, or as `blank` with the
display off, and at the 160th disables the fetcher, emits endOfLine and enters LineBlank. With the fetcher enabled and in
a defined state a Transfer step always completes. -/
def Obligations.TransferEmitsPixels : Prop :=
  (∀ m : Config, decodeCode m (.mode2 0b11) = some .transfer)
  ∧ (∀ s : State, s.fault = none → s.f.enabled = true → s.f.state.toNat ≤ 8 →
      ∃ t, exec .transfer s = .next t ∧ t.fault = none ∧ t.w = s.w ∧ t.mem = s.mem)
  ∧ (∀ s : State,
    s.fault = none → s.f.state.toNat ≤ 8 →
      ∃ s1, exec .fTick s = .next s1 ∧ s1.fault = none
        ∧ ((s1.ppu.lcdc.getLsbD 1 = false ∨ 4 ≤ s1.f.state.toNat ∨ s1.q.length < 8
              ∨ ∀ e ∈ s1.ppu.sprites,
                  ¬ (e.fetched = false ∧ 1 ≤ e.x.toNat ∧ e.x.toNat ≤ 167 ∧ e.x.toNat - 8 = s1.ppu.x.toNat)) →
            s1.f.state.toNat ≤ 8 →
            (4 ≤ s1.f.state.toNat ∨ s1.q.length ≤ 8 → exec .transfer s = .next s1)
            ∧ (∀ (c : Colour) (rest : List Colour),
                s1.f.state.toNat ≤ 3 → s1.q = c :: rest → 8 ≤ rest.length →
                (s1.ppu.x.toNat ≠ 159 →
                  exec .transfer s = .next
                    { s1 with
                      q := rest
                      ppu := { s1.ppu with x := s1.ppu.x + 1 }
                      trace := s1.trace ++ [if s1.ppu.lcdc.getLsbD 7 = true then .writePixel c else .blank] })
                ∧ (s1.ppu.x.toNat = 159 →
                  exec .transfer s = .next
                    { s1 with
                      q := rest
                      ppu := { s1.ppu with x := 160, mode := .lineBlank }
                      f := { s1.f with enabled := false }
                      trace := s1.trace ++
                        [if s1.ppu.lcdc.getLsbD 7 = true then .writePixel c else .blank, .endOfLine] }))))

/-- R119, R117: with sprites on, the fetcher enabled and on the background path and at least 8 queued after the F_TICK,
the first unfetched entry whose first column is `ppu.x` preempts the fetcher and is marked; the step pops nothing. -/
def Obligations.TransferTriggersSprite : Prop :=
  ∀ s : State,
    s.fault = none → s.f.enabled = true → s.f.state.toNat ≤ 8 →
      ∃ s1, exec .fTick s = .next s1 ∧ s1.fault = none
        ∧ ∀ (before after : List SpriteEntry) (e : SpriteEntry),
            s1.ppu.lcdc.getLsbD 1 = true → s1.f.state.toNat ≤ 3 → 8 ≤ s1.q.length →
            s1.ppu.sprites = before ++ e :: after →
            (∀ b ∈ before,
              ¬ (b.fetched = false ∧ 1 ≤ b.x.toNat ∧ b.x.toNat ≤ 167 ∧ b.x.toNat - 8 = s1.ppu.x.toNat)) →
            e.fetched = false → 1 ≤ e.x.toNat → e.x.toNat ≤ 167 → e.x.toNat - 8 = s1.ppu.x.toNat →
            exec .transfer s = .next
              { s1 with
                ppu := { s1.ppu with sprites := before ++ { e with fetched := true } :: after }
                f := { s1.f with old := s1.f.state, state := 0b0100, sprOam := e.oam, sprX := e.x,
                                 sprOffset := BitVec.ofNat 3 (8 - e.x.toNat), sprLine := e.line } }

/-- R122: LineBlank idles until the line has lasted `LINE_STEPS` steps; then line 143 enters FrameBlank with endOfFrame,
and every other line enters Search. -/
def Obligations.LineBlankEndsLine : Prop :=
  (∀ m : Config, decodeCode m (.mode2 0b00) = some .lineBlank)
  ∧ (∀ s : State,
    s.fault = none →
      (s.ppu.lineTick < s.cfg.lineSteps → exec .lineBlank s = .next s)
      ∧ (s.cfg.lineSteps ≤ s.ppu.lineTick → s.ppu.ly.toNat = 143 →
        exec .lineBlank s = .next
          { s with
            ppu := { s.ppu with lineTick := 0, ly := 144, mode := .frameBlank }
            trace := s.trace ++ [.endOfFrame] })
      ∧ (s.cfg.lineSteps ≤ s.ppu.lineTick → s.ppu.ly.toNat ≠ 143 →
        exec .lineBlank s = .next
          { s with ppu := { s.ppu with lineTick := 0, ly := s.ppu.ly + 1, mode := .search } }))

/-- R123: FrameBlank idles `LINE_STEPS` steps a line; line 153 wraps to line 0 in Search; it emits nothing. -/
def Obligations.FrameBlankEndsLine : Prop :=
  (∀ m : Config, decodeCode m (.mode2 0b01) = some .frameBlank)
  ∧ (∀ s : State,
    s.fault = none →
      (s.ppu.lineTick < s.cfg.lineSteps → exec .frameBlank s = .next s)
      ∧ (s.cfg.lineSteps ≤ s.ppu.lineTick → s.ppu.ly.toNat = 153 →
        exec .frameBlank s = .next { s with ppu := { s.ppu with lineTick := 0, ly := 0, mode := .search } })
      ∧ (s.cfg.lineSteps ≤ s.ppu.lineTick → s.ppu.ly.toNat ≠ 153 →
        exec .frameBlank s = .next { s with ppu := { s.ppu with lineTick := 0, ly := s.ppu.ly + 1 } }))

/-- R128: with the display off a PPU_TICK does what it does with the display on, event for event, each `writePixel`
replaced by `blank`. -/
def Obligations.DisplayOffChangesOnlyPixels : Prop :=
  ∀ s t : State,
    exec .ppuTick s = .next t →
      ∃ es : List Event,
        t.trace = s.trace ++ es
        ∧ exec .ppuTick s.displayOff = .next { t.displayOff with trace := s.trace ++ es.map blanked }

/-- R31, R127: LCDC bits 2, 5 and 6 have no effect on a PPU_TICK. -/
def Obligations.UnusedLcdcBitsHaveNoEffect : Prop :=
  ∀ (s t : State) (v : Byte),
    v &&& 0x9B = s.ppu.lcdc &&& 0x9B → exec .ppuTick s = .next t →
      exec .ppuTick { s with ppu := { s.ppu with lcdc := v } } = .next { t with ppu := { t.ppu with lcdc := v } }

/-- R46, R57: the video unit's tick leaves the audio unit, LCDC, LYC and `M`; the audio unit's leaves the video unit, `M`,
the wave table and NR30–NR33. -/
def Obligations.UnitsAreDisjoint : Prop :=
  (∀ s t : State, exec .ppuTick s = .next t →
      t.w = s.w ∧ t.mem = s.mem ∧ t.cfg = s.cfg ∧ t.script = s.script ∧ t.result = s.result ∧ t.draws = s.draws
      ∧ t.ppu.lcdc = s.ppu.lcdc ∧ t.ppu.lyc = s.ppu.lyc)
  ∧ (∀ s t : State, exec .waveTick s = .next t →
      t.ppu = s.ppu ∧ t.f = s.f ∧ t.q = s.q ∧ t.mem = s.mem ∧ t.cfg = s.cfg ∧ t.script = s.script
      ∧ t.fault = s.fault ∧ t.draws = s.draws
      ∧ t.w.table = s.w.table ∧ t.w.nr30 = s.w.nr30 ∧ t.w.nr31 = s.w.nr31 ∧ t.w.nr32 = s.w.nr32
      ∧ t.w.nr33 = s.w.nr33)

/-- R57: within a pulse the two ticks may come in either order: from a state that meets the invariant both orders complete
in the same state but for the order of that pulse's events in the trace. -/
def Obligations.TicksCommute : Prop :=
  ∀ s : State,
    s.Inv → s.fault = none →
      ∃ (t : State) (es : List Event) (v : Sample),
        t.fault = none
        ∧ execAll [.ppuTick, .waveTick] s = .next { t with trace := s.trace ++ es ++ [.sample v] }
        ∧ execAll [.waveTick, .ppuTick] s = .next { t with trace := s.trace ++ [.sample v] ++ es }

/-! ### The wave channel -/

/-- R130: a WAVE_TICK that finds the restart latch set clears it, enables the channel and resets the phase, and goes on
from there; with NR30 bit 7 clear it then returns silence with the restart done. -/
def Obligations.WaveRestartResetsPhase : Prop :=
  ∀ (s : State) (w : Wave),
    s.fault = none → s.w.nr34.getLsbD 7 = true →
    w = { s.w with
          nr34 := s.w.nr34 &&& 0x7F, enabled := true, idx := 0, sub := 0, div := 0,
          cur := if s.cfg.restartReloadsSample = true then sampleValue s.w 0 else s.w.cur } →
      w.nr34.getLsbD 7 = false
      ∧ exec .waveTick s = exec .waveTick { s with w := w }
      ∧ (s.w.nr30.getLsbD 7 = false →
          exec .waveTick s = .next { s with w := w, trace := s.trace ++ [.sample 0], result := .sample 0 })

/-- R131: with no restart pending, a channel that is disabled or off returns silence and keeps its phase. -/
def Obligations.WaveGateSilences : Prop :=
  ∀ s : State,
    s.fault = none → s.w.nr34.getLsbD 7 = false → s.w.enabled = false ∨ s.w.nr30.getLsbD 7 = false →
      exec .waveTick s = .next { s with trace := s.trace ++ [.sample 0], result := .sample 0 }

/-- R132–R135, R71, R74, R76: with the gate open, a tick that is no output-rate tick counts and returns the current
sample; an output-rate tick below the threshold counts the sub-tick and returns the current sample; one that reaches
it advances the index mod 32 and returns the sample derived there, the nibble of the packed table shifted right by
the volume. -/
def Obligations.WaveOutputTickAdvances : Prop :=
  ∀ (s : State) (raw freq T i b shift : Nat),
    s.fault = none → s.w.nr34.getLsbD 7 = false → s.w.enabled = true → s.w.nr30.getLsbD 7 = true →
    raw = (s.w.nr34.toNat % 8) * 256 + s.w.nr33.toNat →
    freq = s.cfg.masterRate / (2048 - raw) →
    T = s.cfg.masterRate / (freq * 32) →
    i = (s.w.idx.toNat + 1) % 32 →
    b = (s.w.table.toList.getD (i / 2) 0).toNat →
    shift = [4, 0, 1, 2].getD (s.w.nr32.toNat / 32 % 4) 0 →
      (s.w.div + 1 < s.cfg.audioClockFactor →
        exec .waveTick s = .next
          { s with
            w := { s.w with div := s.w.div + 1 }
            trace := s.trace ++ [.sample s.w.cur], result := .sample s.w.cur })
      ∧ (s.cfg.audioClockFactor ≤ s.w.div + 1 → s.w.sub + 1 < T →
        exec .waveTick s = .next
          { s with
            w := { s.w with div := 0, sub := s.w.sub + 1 }
            trace := s.trace ++ [.sample s.w.cur], result := .sample s.w.cur })
      ∧ (s.cfg.audioClockFactor ≤ s.w.div + 1 → T ≤ s.w.sub + 1 →
        ∃ v : Sample,
          v.toNat = (if i % 2 = 0 then b / 16 else b % 16) / 2 ^ shift
          ∧ exec .waveTick s = .next
              { s with
                w := { s.w with div := 0, sub := 0, idx := BitVec.ofNat 5 i, cur := v }
                trace := s.trace ++ [.sample v], result := .sample v })

/-- R135, R136: with the gate open and `AUDIO_CLOCK_FACTOR` 1, every tick before the threshold returns the same sample,
and from sub-tick 0 a sample lasts exactly `T` ticks: the last of them returns the next sample. -/
def Obligations.WaveSampleLastsItsPeriod : Prop :=
  ∀ (s : State) (T : Nat),
    s.fault = none → s.w.nr34.getLsbD 7 = false → s.w.enabled = true → s.w.nr30.getLsbD 7 = true →
    s.cfg.audioClockFactor = 1 → s.w.div = 0 →
    T = s.cfg.masterRate / (s.cfg.masterRate / (2048 - ((s.w.nr34.toNat % 8) * 256 + s.w.nr33.toNat)) * 32) →
      (∀ n, s.w.sub + n < T →
        ∃ t, execAll (List.replicate n .waveTick) s = .next t
          ∧ t.w = { s.w with sub := s.w.sub + n }
          ∧ t.trace = s.trace ++ List.replicate n (.sample s.w.cur))
      ∧ (s.w.sub = 0 → 1 ≤ T →
        ∃ t v, execAll (List.replicate T .waveTick) s = .next t
          ∧ v = sampleValue s.w (s.w.idx + 1)
          ∧ t.w = { s.w with sub := 0, idx := s.w.idx + 1, cur := v }
          ∧ t.trace = s.trace ++ List.replicate (T - 1) (.sample s.w.cur) ++ [.sample v])

/-! ### The host's accesses -/

/-- R137, R139–R141: REG_WRITE at a register's address stores the byte in that register and changes nothing else; LY
ignores it; NR34 stores bits 6:0 and keeps or sets the restart latch; a wave-table byte leaves the other fifteen. -/
def Obligations.RegWriteStores : Prop :=
  ∀ (s : State) (d : Byte),
    s.fault = none → s.cfg.admitted = true →
      exec (.regWrite s.cfg.lcdcAddr d) s = .next { s with ppu := { s.ppu with lcdc := d } }
      ∧ exec (.regWrite s.cfg.lyAddr d) s = .next s
      ∧ exec (.regWrite s.cfg.lycAddr d) s = .next { s with ppu := { s.ppu with lyc := d } }
      ∧ exec (.regWrite s.cfg.nr30Addr d) s = .next { s with w := { s.w with nr30 := d } }
      ∧ exec (.regWrite s.cfg.nr31Addr d) s = .next { s with w := { s.w with nr31 := d } }
      ∧ exec (.regWrite s.cfg.nr32Addr d) s = .next { s with w := { s.w with nr32 := d } }
      ∧ exec (.regWrite s.cfg.nr33Addr d) s = .next { s with w := { s.w with nr33 := d } }
      ∧ (∃ v : Byte,
          exec (.regWrite s.cfg.nr34Addr d) s = .next { s with w := { s.w with nr34 := v } }
          ∧ v.getLsbD 7 = (s.w.nr34.getLsbD 7 || d.getLsbD 7)
          ∧ ∀ j, j < 7 → v.getLsbD j = d.getLsbD j)
      ∧ (∀ k : Fin 16, ∃ table : Vector Byte 16,
          exec (.regWrite (s.cfg.waveBase + BitVec.ofNat 16 k.val) d) s = .next { s with w := { s.w with table := table } }
          ∧ ∀ j : Fin 16, table[j] = if j = k then d else s.w.table[j])

/-- R138–R141: REG_READ at a register's address emits and returns the register's byte and changes nothing else; bit 7 of
NR34 is a draw, and so is left open here, with the model's count of draws. -/
def Obligations.RegReadReturns : Prop :=
  ∀ (s : State) (a : Addr),
    s.fault = none → s.cfg.admitted = true →
      (∀ v : Byte,
        ((a = s.cfg.lcdcAddr ∧ v = s.ppu.lcdc) ∨ (a = s.cfg.lyAddr ∧ v = s.ppu.ly)
          ∨ (a = s.cfg.lycAddr ∧ v = s.ppu.lyc) ∨ (a = s.cfg.nr30Addr ∧ v = s.w.nr30)
          ∨ (a = s.cfg.nr31Addr ∧ v = s.w.nr31) ∨ (a = s.cfg.nr32Addr ∧ v = s.w.nr32)
          ∨ (a = s.cfg.nr33Addr ∧ v = s.w.nr33)
          ∨ (∃ k : Fin 16, a = s.cfg.waveBase + BitVec.ofNat 16 k.val ∧ v = s.w.table[k])) →
        exec (.regRead a) s = .next { s with trace := s.trace ++ [.regRead a v], result := .byte v })
      ∧ (a = s.cfg.nr34Addr →
        ∃ (v : Byte) (n : Nat),
          exec (.regRead a) s = .next { s with trace := s.trace ++ [.regRead a v], result := .byte v, draws := n }
          ∧ ∀ j, j < 7 → v.getLsbD j = s.w.nr34.getLsbD j)

/-- R87: a REG_WRITE of an address no register occupies changes nothing; a REG_READ of one returns some byte, which is
left open, and changes nothing else but the model's count of draws. -/
def Obligations.UnmappedAddressesHaveNoEffect : Prop :=
  ∀ (s : State) (a : Addr) (d : Byte),
    s.fault = none →
    a ∉ [s.cfg.lcdcAddr, s.cfg.lyAddr, s.cfg.lycAddr, s.cfg.nr30Addr, s.cfg.nr31Addr, s.cfg.nr32Addr, s.cfg.nr33Addr,
         s.cfg.nr34Addr] →
    (∀ k : Fin 16, a ≠ s.cfg.waveBase + BitVec.ofNat 16 k.val) →
      exec (.regWrite a d) s = .next s
      ∧ ∃ (v : Byte) (n : Nat),
          exec (.regRead a) s = .next { s with trace := s.trace ++ [.regRead a v], result := .byte v, draws := n }

/-- R82, R137–R141: the REG16 rows: a write row does what REG_WRITE of the row's address does, a read row what REG_READ
does, and each completes without a fault. -/
def Obligations.RegisterRowsAreBusAccesses : Prop :=
  ∀ (s : State) (i : BusAccess → Instr) (a : Addr) (d : Byte),
    s.fault = none → s.cfg.admitted = true →
    ((i = .lcdc ∧ a = s.cfg.lcdcAddr) ∨ (i = .ly ∧ a = s.cfg.lyAddr) ∨ (i = .lyc ∧ a = s.cfg.lycAddr)
      ∨ (i = .nr30 ∧ a = s.cfg.nr30Addr) ∨ (i = .nr31 ∧ a = s.cfg.nr31Addr) ∨ (i = .nr32 ∧ a = s.cfg.nr32Addr)
      ∨ (i = .nr33 ∧ a = s.cfg.nr33Addr) ∨ (i = .nr34 ∧ a = s.cfg.nr34Addr)
      ∨ (∃ k : BitVec 4, i = .waveTable k ∧ a = s.cfg.waveBase + BitVec.ofNat 16 k.toNat)) →
      (∃ t, exec (i (.write d)) s = .next t ∧ exec (.regWrite a d) s = .next t ∧ t.fault = none)
      ∧ (∃ t, exec (i .read) s = .next t ∧ exec (.regRead a) s = .next t ∧ t.fault = none)
end

