-- ==== Sys2Proof/Laws/State.lean ====
section
/-! SUPPORT. One lemma per field per setter, so that no proof unfolds a record update. -/

namespace Sys2Proof.Machine

@[simp] theorem setPpu_cfg (s : State) (v : Ppu) : (s.setPpu v).cfg = s.cfg := rfl
@[simp] theorem setPpu_ppu (s : State) (v : Ppu) : (s.setPpu v).ppu = v := rfl
@[simp] theorem setPpu_f (s : State) (v : Ppu) : (s.setPpu v).f = s.f := rfl
@[simp] theorem setPpu_q (s : State) (v : Ppu) : (s.setPpu v).q = s.q := rfl
@[simp] theorem setPpu_w (s : State) (v : Ppu) : (s.setPpu v).w = s.w := rfl
@[simp] theorem setPpu_fault (s : State) (v : Ppu) : (s.setPpu v).fault = s.fault := rfl
@[simp] theorem setPpu_mem (s : State) (v : Ppu) : (s.setPpu v).mem = s.mem := rfl
@[simp] theorem setPpu_trace (s : State) (v : Ppu) : (s.setPpu v).trace = s.trace := rfl
@[simp] theorem setPpu_script (s : State) (v : Ppu) : (s.setPpu v).script = s.script := rfl
@[simp] theorem setPpu_result (s : State) (v : Ppu) : (s.setPpu v).result = s.result := rfl
@[simp] theorem setPpu_draws (s : State) (v : Ppu) : (s.setPpu v).draws = s.draws := rfl

@[simp] theorem setF_cfg (s : State) (v : Fetcher) : (s.setF v).cfg = s.cfg := rfl
@[simp] theorem setF_ppu (s : State) (v : Fetcher) : (s.setF v).ppu = s.ppu := rfl
@[simp] theorem setF_f (s : State) (v : Fetcher) : (s.setF v).f = v := rfl
@[simp] theorem setF_q (s : State) (v : Fetcher) : (s.setF v).q = s.q := rfl
@[simp] theorem setF_w (s : State) (v : Fetcher) : (s.setF v).w = s.w := rfl
@[simp] theorem setF_fault (s : State) (v : Fetcher) : (s.setF v).fault = s.fault := rfl
@[simp] theorem setF_mem (s : State) (v : Fetcher) : (s.setF v).mem = s.mem := rfl
@[simp] theorem setF_trace (s : State) (v : Fetcher) : (s.setF v).trace = s.trace := rfl
@[simp] theorem setF_script (s : State) (v : Fetcher) : (s.setF v).script = s.script := rfl
@[simp] theorem setF_result (s : State) (v : Fetcher) : (s.setF v).result = s.result := rfl
@[simp] theorem setF_draws (s : State) (v : Fetcher) : (s.setF v).draws = s.draws := rfl

@[simp] theorem setQ_cfg (s : State) (v : List Colour) : (s.setQ v).cfg = s.cfg := rfl
@[simp] theorem setQ_ppu (s : State) (v : List Colour) : (s.setQ v).ppu = s.ppu := rfl
@[simp] theorem setQ_f (s : State) (v : List Colour) : (s.setQ v).f = s.f := rfl
@[simp] theorem setQ_q (s : State) (v : List Colour) : (s.setQ v).q = v := rfl
@[simp] theorem setQ_w (s : State) (v : List Colour) : (s.setQ v).w = s.w := rfl
@[simp] theorem setQ_fault (s : State) (v : List Colour) : (s.setQ v).fault = s.fault := rfl
@[simp] theorem setQ_mem (s : State) (v : List Colour) : (s.setQ v).mem = s.mem := rfl
@[simp] theorem setQ_trace (s : State) (v : List Colour) : (s.setQ v).trace = s.trace := rfl
@[simp] theorem setQ_script (s : State) (v : List Colour) : (s.setQ v).script = s.script := rfl
@[simp] theorem setQ_result (s : State) (v : List Colour) : (s.setQ v).result = s.result := rfl
@[simp] theorem setQ_draws (s : State) (v : List Colour) : (s.setQ v).draws = s.draws := rfl

@[simp] theorem setW_cfg (s : State) (v : Wave) : (s.setW v).cfg = s.cfg := rfl
@[simp] theorem setW_ppu (s : State) (v : Wave) : (s.setW v).ppu = s.ppu := rfl
@[simp] theorem setW_f (s : State) (v : Wave) : (s.setW v).f = s.f := rfl
@[simp] theorem setW_q (s : State) (v : Wave) : (s.setW v).q = s.q := rfl
@[simp] theorem setW_w (s : State) (v : Wave) : (s.setW v).w = v := rfl
@[simp] theorem setW_fault (s : State) (v : Wave) : (s.setW v).fault = s.fault := rfl
@[simp] theorem setW_mem (s : State) (v : Wave) : (s.setW v).mem = s.mem := rfl
@[simp] theorem setW_trace (s : State) (v : Wave) : (s.setW v).trace = s.trace := rfl
@[simp] theorem setW_script (s : State) (v : Wave) : (s.setW v).script = s.script := rfl
@[simp] theorem setW_result (s : State) (v : Wave) : (s.setW v).result = s.result := rfl
@[simp] theorem setW_draws (s : State) (v : Wave) : (s.setW v).draws = s.draws := rfl

@[simp] theorem setFault_cfg (s : State) (v : Option FaultCode) : (s.setFault v).cfg = s.cfg := rfl
@[simp] theorem setFault_ppu (s : State) (v : Option FaultCode) : (s.setFault v).ppu = s.ppu := rfl
@[simp] theorem setFault_f (s : State) (v : Option FaultCode) : (s.setFault v).f = s.f := rfl
@[simp] theorem setFault_q (s : State) (v : Option FaultCode) : (s.setFault v).q = s.q := rfl
@[simp] theorem setFault_w (s : State) (v : Option FaultCode) : (s.setFault v).w = s.w := rfl
@[simp] theorem setFault_fault (s : State) (v : Option FaultCode) : (s.setFault v).fault = v := rfl
@[simp] theorem setFault_mem (s : State) (v : Option FaultCode) : (s.setFault v).mem = s.mem := rfl
@[simp] theorem setFault_trace (s : State) (v : Option FaultCode) : (s.setFault v).trace = s.trace := rfl
@[simp] theorem setFault_script (s : State) (v : Option FaultCode) : (s.setFault v).script = s.script := rfl
@[simp] theorem setFault_result (s : State) (v : Option FaultCode) : (s.setFault v).result = s.result := rfl
@[simp] theorem setFault_draws (s : State) (v : Option FaultCode) : (s.setFault v).draws = s.draws := rfl

@[simp] theorem setMem_cfg (s : State) (v : Memory) : (s.setMem v).cfg = s.cfg := rfl
@[simp] theorem setMem_ppu (s : State) (v : Memory) : (s.setMem v).ppu = s.ppu := rfl
@[simp] theorem setMem_f (s : State) (v : Memory) : (s.setMem v).f = s.f := rfl
@[simp] theorem setMem_q (s : State) (v : Memory) : (s.setMem v).q = s.q := rfl
@[simp] theorem setMem_w (s : State) (v : Memory) : (s.setMem v).w = s.w := rfl
@[simp] theorem setMem_fault (s : State) (v : Memory) : (s.setMem v).fault = s.fault := rfl
@[simp] theorem setMem_mem (s : State) (v : Memory) : (s.setMem v).mem = v := rfl
@[simp] theorem setMem_trace (s : State) (v : Memory) : (s.setMem v).trace = s.trace := rfl
@[simp] theorem setMem_script (s : State) (v : Memory) : (s.setMem v).script = s.script := rfl
@[simp] theorem setMem_result (s : State) (v : Memory) : (s.setMem v).result = s.result := rfl
@[simp] theorem setMem_draws (s : State) (v : Memory) : (s.setMem v).draws = s.draws := rfl

@[simp] theorem setScript_cfg (s : State) (v : List Byte) : (s.setScript v).cfg = s.cfg := rfl
@[simp] theorem setScript_ppu (s : State) (v : List Byte) : (s.setScript v).ppu = s.ppu := rfl
@[simp] theorem setScript_f (s : State) (v : List Byte) : (s.setScript v).f = s.f := rfl
@[simp] theorem setScript_q (s : State) (v : List Byte) : (s.setScript v).q = s.q := rfl
@[simp] theorem setScript_w (s : State) (v : List Byte) : (s.setScript v).w = s.w := rfl
@[simp] theorem setScript_fault (s : State) (v : List Byte) : (s.setScript v).fault = s.fault := rfl
@[simp] theorem setScript_mem (s : State) (v : List Byte) : (s.setScript v).mem = s.mem := rfl
@[simp] theorem setScript_trace (s : State) (v : List Byte) : (s.setScript v).trace = s.trace := rfl
@[simp] theorem setScript_script (s : State) (v : List Byte) : (s.setScript v).script = v := rfl
@[simp] theorem setScript_result (s : State) (v : List Byte) : (s.setScript v).result = s.result := rfl
@[simp] theorem setScript_draws (s : State) (v : List Byte) : (s.setScript v).draws = s.draws := rfl

@[simp] theorem setResult_cfg (s : State) (v : OpResult) : (s.setResult v).cfg = s.cfg := rfl
@[simp] theorem setResult_ppu (s : State) (v : OpResult) : (s.setResult v).ppu = s.ppu := rfl
@[simp] theorem setResult_f (s : State) (v : OpResult) : (s.setResult v).f = s.f := rfl
@[simp] theorem setResult_q (s : State) (v : OpResult) : (s.setResult v).q = s.q := rfl
@[simp] theorem setResult_w (s : State) (v : OpResult) : (s.setResult v).w = s.w := rfl
@[simp] theorem setResult_fault (s : State) (v : OpResult) : (s.setResult v).fault = s.fault := rfl
@[simp] theorem setResult_mem (s : State) (v : OpResult) : (s.setResult v).mem = s.mem := rfl
@[simp] theorem setResult_trace (s : State) (v : OpResult) : (s.setResult v).trace = s.trace := rfl
@[simp] theorem setResult_script (s : State) (v : OpResult) : (s.setResult v).script = s.script := rfl
@[simp] theorem setResult_result (s : State) (v : OpResult) : (s.setResult v).result = v := rfl
@[simp] theorem setResult_draws (s : State) (v : OpResult) : (s.setResult v).draws = s.draws := rfl

@[simp] theorem emit_cfg (s : State) (e : Event) : (s.emit e).cfg = s.cfg := rfl
@[simp] theorem emit_ppu (s : State) (e : Event) : (s.emit e).ppu = s.ppu := rfl
@[simp] theorem emit_f (s : State) (e : Event) : (s.emit e).f = s.f := rfl
@[simp] theorem emit_q (s : State) (e : Event) : (s.emit e).q = s.q := rfl
@[simp] theorem emit_w (s : State) (e : Event) : (s.emit e).w = s.w := rfl
@[simp] theorem emit_fault (s : State) (e : Event) : (s.emit e).fault = s.fault := rfl
@[simp] theorem emit_mem (s : State) (e : Event) : (s.emit e).mem = s.mem := rfl
@[simp] theorem emit_trace (s : State) (e : Event) : (s.emit e).trace = s.trace ++ [e] := rfl
@[simp] theorem emit_script (s : State) (e : Event) : (s.emit e).script = s.script := rfl
@[simp] theorem emit_result (s : State) (e : Event) : (s.emit e).result = s.result := rfl
@[simp] theorem emit_draws (s : State) (e : Event) : (s.emit e).draws = s.draws := rfl

@[simp] theorem useDraws_cfg (s : State) (n : Nat) : (s.useDraws n).cfg = s.cfg := rfl
@[simp] theorem useDraws_ppu (s : State) (n : Nat) : (s.useDraws n).ppu = s.ppu := rfl
@[simp] theorem useDraws_f (s : State) (n : Nat) : (s.useDraws n).f = s.f := rfl
@[simp] theorem useDraws_q (s : State) (n : Nat) : (s.useDraws n).q = s.q := rfl
@[simp] theorem useDraws_w (s : State) (n : Nat) : (s.useDraws n).w = s.w := rfl
@[simp] theorem useDraws_fault (s : State) (n : Nat) : (s.useDraws n).fault = s.fault := rfl
@[simp] theorem useDraws_mem (s : State) (n : Nat) : (s.useDraws n).mem = s.mem := rfl
@[simp] theorem useDraws_trace (s : State) (n : Nat) : (s.useDraws n).trace = s.trace := rfl
@[simp] theorem useDraws_script (s : State) (n : Nat) : (s.useDraws n).script = s.script := rfl
@[simp] theorem useDraws_result (s : State) (n : Nat) : (s.useDraws n).result = s.result := rfl
@[simp] theorem useDraws_draws (s : State) (n : Nat) : (s.useDraws n).draws = s.draws + n := rfl

@[simp] theorem setPpu_setPpu (s : State) (v v' : Ppu) : (s.setPpu v).setPpu v' = s.setPpu v' := rfl
@[simp] theorem setPpu_self (s : State) : s.setPpu s.ppu = s := rfl
@[simp] theorem setF_setF (s : State) (v v' : Fetcher) : (s.setF v).setF v' = s.setF v' := rfl
@[simp] theorem setF_self (s : State) : s.setF s.f = s := rfl
@[simp] theorem setQ_setQ (s : State) (v v' : List Colour) : (s.setQ v).setQ v' = s.setQ v' := rfl
@[simp] theorem setQ_self (s : State) : s.setQ s.q = s := rfl
@[simp] theorem setW_setW (s : State) (v v' : Wave) : (s.setW v).setW v' = s.setW v' := rfl
@[simp] theorem setW_self (s : State) : s.setW s.w = s := rfl
@[simp] theorem setFault_setFault (s : State) (v v' : Option FaultCode) : (s.setFault v).setFault v' = s.setFault v' := rfl
@[simp] theorem setFault_self (s : State) : s.setFault s.fault = s := rfl
@[simp] theorem setMem_setMem (s : State) (v v' : Memory) : (s.setMem v).setMem v' = s.setMem v' := rfl
@[simp] theorem setMem_self (s : State) : s.setMem s.mem = s := rfl
@[simp] theorem setScript_setScript (s : State) (v v' : List Byte) : (s.setScript v).setScript v' = s.setScript v' := rfl
@[simp] theorem setScript_self (s : State) : s.setScript s.script = s := rfl
@[simp] theorem setResult_setResult (s : State) (v v' : OpResult) : (s.setResult v).setResult v' = s.setResult v' := rfl
@[simp] theorem setResult_self (s : State) : s.setResult s.result = s := rfl

@[simp] theorem memRead_eq (s : State) (a : Addr) : s.memRead a = s.mem.read a.toNat := rfl

@[simp] theorem memWrite_cfg (s : State) (a : Addr) (v : Byte) : (s.memWrite a v).cfg = s.cfg := rfl
@[simp] theorem memWrite_ppu (s : State) (a : Addr) (v : Byte) : (s.memWrite a v).ppu = s.ppu := rfl
@[simp] theorem memWrite_f (s : State) (a : Addr) (v : Byte) : (s.memWrite a v).f = s.f := rfl
@[simp] theorem memWrite_q (s : State) (a : Addr) (v : Byte) : (s.memWrite a v).q = s.q := rfl
@[simp] theorem memWrite_w (s : State) (a : Addr) (v : Byte) : (s.memWrite a v).w = s.w := rfl
@[simp] theorem memWrite_fault (s : State) (a : Addr) (v : Byte) : (s.memWrite a v).fault = s.fault := rfl
@[simp] theorem memWrite_trace (s : State) (a : Addr) (v : Byte) : (s.memWrite a v).trace = s.trace := rfl
@[simp] theorem memWrite_script (s : State) (a : Addr) (v : Byte) : (s.memWrite a v).script = s.script := rfl
@[simp] theorem memWrite_result (s : State) (a : Addr) (v : Byte) : (s.memWrite a v).result = s.result := rfl
@[simp] theorem memWrite_draws (s : State) (a : Addr) (v : Byte) : (s.memWrite a v).draws = s.draws := rfl
@[simp] theorem memWrite_mem (s : State) (a : Addr) (v : Byte) : (s.memWrite a v).mem = s.mem.write a.toNat v := rfl

end Sys2Proof.Machine
end

