-- ==== Sys2Proof/Laws/Decode.lean ====
section
/-! SUPPORT. Decoding and encoding: the tables are inverse to each other, and the packed operands come apart as they
were put together. -/

namespace Sys2Proof

@[simp] theorem Op8.ofByte_code (o : Op8) : Op8.ofByte o.code = some o := by cases o <;> rfl

theorem Op8.code_of_ofByte {b : Byte} {o : Op8} (h : Op8.ofByte b = some o) : b = o.code := by
  have := List.find?_some h
  exact (eq_of_beq this).symm

@[simp] theorem FetchState.ofCode_code (st : FetchState) : FetchState.ofCode st.code = some st := by
  cases st <;> rfl

theorem FetchState.code_of_ofCode {c : BitVec 4} {st : FetchState} (h : FetchState.ofCode c = some st) :
    c = st.code := by
  have := List.find?_some h
  exact (eq_of_beq this).symm

/-- A code up to 8 names a fetcher state. -/
theorem FetchState.exists_of_le {c : BitVec 4} (h : c.toNat ≤ 8) : ∃ st, FetchState.ofCode c = some st := by
  have all : ∀ c : BitVec 4, c.toNat ≤ 8 → (FetchState.ofCode c).isSome = true := by decide
  exact Option.isSome_iff_exists.mp (all c h)

theorem FetchState.ofCode_reserved {c : BitVec 4} (h : 9 ≤ c.toNat) : FetchState.ofCode c = none := by
  revert c; decide

theorem FetchState.code_le (st : FetchState) : st.code.toNat ≤ 8 := by cases st <;> decide

@[simp] theorem Mode.ofCode_code (md : Mode) : Mode.ofCode md.code = md := by cases md <;> rfl

@[simp] theorem Mode.code_ofCode (c : BitVec 2) : (Mode.ofCode c).code = c := by revert c; decide

/-- The record at the front of a script whose first byte is an opcode. -/
theorem decode_code (o : Op8) (bs : List Byte) : decode (o.code :: bs) = decodeOperands o bs := by
  simp [decode]

/-! ### Packed operands -/

@[simp] theorem joinBytes_high_low (a : BitVec 16) : joinBytes (highByte a) (lowByte a) = a := by
  apply BitVec.eq_of_toNat_eq
  have := a.isLt
  simp [joinBytes, highByte, lowByte, Nat.shiftRight_eq_div_pow]
  omega

@[simp] theorem highByte_join (hi lo : Byte) : highByte (joinBytes hi lo) = hi := by
  apply BitVec.eq_of_toNat_eq
  have := hi.isLt
  have := lo.isLt
  simp [joinBytes, highByte, Nat.shiftRight_eq_div_pow]
  omega

@[simp] theorem lowByte_join (hi lo : Byte) : lowByte (joinBytes hi lo) = lo := by
  apply BitVec.eq_of_toNat_eq
  have := hi.isLt
  have := lo.isLt
  simp [joinBytes, lowByte]
  omega

@[simp] theorem unpack_pack (c : Lanes) : unpackLanes (packLanes c) = c := by
  obtain ⟨c0, c1, c2, c3, c4, c5, c6, c7⟩ := c
  have := c0.isLt; have := c1.isLt; have := c2.isLt; have := c3.isLt
  have := c4.isLt; have := c5.isLt; have := c6.isLt; have := c7.isLt
  simp only [unpackLanes, packLanes, Lanes.mk.injEq]
  refine ⟨?_, ?_, ?_, ?_, ?_, ?_, ?_, ?_⟩ <;> apply BitVec.eq_of_toNat_eq <;>
    simp [Nat.shiftRight_eq_div_pow] <;> omega

@[simp] theorem pack_unpack (p : BitVec 16) : packLanes (unpackLanes p) = p := by
  apply BitVec.eq_of_toNat_eq
  have := p.isLt
  simp [unpackLanes, packLanes, Nat.shiftRight_eq_div_pow]
  omega

end Sys2Proof
end

