-- ==== Sys2Proof/Laws/Memory.lean ====
section
/-! SUPPORT. Memory: a read after a write gives the byte written, a write leaves every other address alone, every
operation keeps the canonical form, and two memories in that form that read alike are equal. -/

namespace Sys2Proof.Machine

variable {launch : Option Byte} {cells : List Host.Cell} {lo a b : Nat} {v : Byte} {m m' : Memory}

/-! ### What an unlisted address reads as -/

/-- The host's launch byte, where it supplied one. -/
@[simp] theorem unlisted_some : Memory.unlisted (some v) a = v := rfl

/-- A draw of its own for each address, where the host supplied nothing. -/
@[simp] theorem unlisted_none : Memory.unlisted none a = Config.launchDraw a := rfl

@[simp] theorem write_launch : (m.write a v).launch = m.launch := rfl

/-! ### The cells -/

theorem wfFrom_cons {c : Host.Cell} :
    Memory.wfFrom launch lo (c :: cells) = true ↔
      lo ≤ c.1 ∧ c.1 < 65536 ∧ c.2 ≠ Memory.unlisted launch c.1 ∧ Memory.wfFrom launch (c.1 + 1) cells = true := by
  simp only [Memory.wfFrom, Bool.and_eq_true, decide_eq_true_eq, and_assoc]

/-- Cells that list nothing below `lo` read there as an unlisted address does. -/
theorem readCells_below (h : Memory.wfFrom launch lo cells = true) (ha : a < lo) :
    Memory.readCells launch cells a = Memory.unlisted launch a := by
  induction cells generalizing lo with
  | nil => rfl
  | cons c rest ih =>
    obtain ⟨h1, -, -, h4⟩ := wfFrom_cons.mp h
    rw [Memory.readCells, if_neg (by omega), ih h4 (by omega)]

theorem wfFrom_mono {lo' : Nat} (h : Memory.wfFrom launch lo cells = true) (hl : lo' ≤ lo) :
    Memory.wfFrom launch lo' cells = true := by
  cases cells with
  | nil => rfl
  | cons c rest =>
    rw [wfFrom_cons] at h ⊢
    exact ⟨hl.trans h.1, h.2⟩

theorem putCell_wfFrom (h : Memory.wfFrom launch (a + 1) cells = true) (hlo : lo ≤ a) (ha : a < 65536) :
    Memory.wfFrom launch lo (Memory.putCell launch a v cells) = true := by
  unfold Memory.putCell
  split
  · exact wfFrom_mono h (by omega)
  · exact wfFrom_cons.mpr ⟨hlo, ha, ‹_›, h⟩

theorem readCells_putCell_same (h : Memory.wfFrom launch (a + 1) cells = true) :
    Memory.readCells launch (Memory.putCell launch a v cells) a = v := by
  unfold Memory.putCell
  split
  · rename_i hv
    rw [readCells_below h (by omega), hv]
  · simp [Memory.readCells]

theorem readCells_putCell_other (h : b ≠ a) :
    Memory.readCells launch (Memory.putCell launch a v cells) b = Memory.readCells launch cells b := by
  unfold Memory.putCell
  split
  · rfl
  · simp [Memory.readCells, h]

theorem writeCells_wfFrom (h : Memory.wfFrom launch lo cells = true) (hlo : lo ≤ a) (ha : a < 65536) :
    Memory.wfFrom launch lo (Memory.writeCells launch cells a v) = true := by
  induction cells generalizing lo with
  | nil => exact putCell_wfFrom rfl hlo ha
  | cons c rest ih =>
    obtain ⟨h1, h2, h3, h4⟩ := wfFrom_cons.mp h
    simp only [Memory.writeCells]
    split
    · exact putCell_wfFrom (wfFrom_cons.mpr ⟨by omega, h2, h3, h4⟩) hlo ha
    · split
      · rename_i heq
        exact putCell_wfFrom (heq ▸ h4) hlo ha
      · exact wfFrom_cons.mpr ⟨h1, h2, h3, ih h4 (by omega)⟩

theorem readCells_writeCells_same (h : Memory.wfFrom launch lo cells = true) :
    Memory.readCells launch (Memory.writeCells launch cells a v) a = v := by
  induction cells generalizing lo with
  | nil => exact readCells_putCell_same (cells := []) rfl
  | cons c rest ih =>
    obtain ⟨-, h2, h3, h4⟩ := wfFrom_cons.mp h
    simp only [Memory.writeCells]
    split
    · exact readCells_putCell_same (wfFrom_cons.mpr ⟨by omega, h2, h3, h4⟩)
    · split
      · rename_i heq
        exact readCells_putCell_same (heq ▸ h4)
      · rename_i hne
        rw [Memory.readCells, if_neg hne]
        exact ih h4

theorem readCells_writeCells_other (hne : b ≠ a) :
    Memory.readCells launch (Memory.writeCells launch cells a v) b = Memory.readCells launch cells b := by
  induction cells with
  | nil => exact readCells_putCell_other hne
  | cons c rest ih =>
    simp only [Memory.writeCells]
    split
    · exact readCells_putCell_other hne
    · split
      · rename_i heq
        rw [readCells_putCell_other hne, Memory.readCells, if_neg (heq ▸ hne)]
      · simp only [Memory.readCells, ih]

/-- Cells in canonical form that read alike everywhere are equal. -/
theorem cells_ext {cells' : List Host.Cell} {lo' : Nat} (h : Memory.wfFrom launch lo cells = true)
    (h' : Memory.wfFrom launch lo' cells' = true)
    (hr : ∀ a, Memory.readCells launch cells a = Memory.readCells launch cells' a) : cells = cells' := by
  induction cells generalizing cells' lo lo' with
  | nil =>
    cases cells' with
    | nil => rfl
    | cons c' rest' => exact absurd (by simpa [Memory.readCells] using (hr c'.1).symm) (wfFrom_cons.mp h').2.2.1
  | cons c rest ih =>
    obtain ⟨-, -, h3, h4⟩ := wfFrom_cons.mp h
    have hc := hr c.1
    cases cells' with
    | nil => exact absurd (by simpa [Memory.readCells] using hc) h3
    | cons c' rest' =>
      obtain ⟨-, -, h3', h4'⟩ := wfFrom_cons.mp h'
      have hc' := hr c'.1
      simp only [Memory.readCells, if_pos] at hc hc'
      have hlt : ¬ c.1 < c'.1 := fun hl => h3 (by
        rw [hc, if_neg (by omega), readCells_below h4' (by omega)])
      have hgt : ¬ c'.1 < c.1 := fun hl => h3' (by
        rw [← hc', if_neg (by omega), readCells_below h4 (by omega)])
      have heq : c.1 = c'.1 := by omega
      rw [if_pos heq] at hc
      obtain rfl : c = c' := Prod.ext heq hc
      refine congrArg (c :: ·) (ih h4 h4' fun a => ?_)
      by_cases ha : a = c.1
      · rw [ha, readCells_below h4 (by omega), readCells_below h4' (by omega)]
      · simpa [Memory.readCells, ha] using hr a

/-! ### The memory -/

theorem read_write_other (hne : b ≠ a) : (m.write a v).read b = m.read b := readCells_writeCells_other hne

/-- A read after a write to the same address gives the byte written. -/
theorem read_write_same (h : m.wf = true) : (m.write a v).read a = v := readCells_writeCells_same h

/-- A write within the address space keeps the canonical form. -/
theorem write_wf (h : m.wf = true) (ha : a < 65536) : (m.write a v).wf = true :=
  writeCells_wfFrom h (Nat.zero_le a) ha

/-- Memories in canonical form with the same launch contents that read alike everywhere are equal. -/
theorem memory_ext (h : m.wf = true) (h' : m'.wf = true) (hl : m.launch = m'.launch) (hr : ∀ a, m.read a = m'.read a) :
    m = m' := by
  obtain ⟨launch, cells⟩ := m
  obtain ⟨_, cells'⟩ := m'
  obtain rfl : launch = _ := hl
  exact congrArg (Memory.mk launch) (cells_ext h h' hr)

/-- MEM_WRITE keeps the canonical form. -/
theorem memWrite_wf {s : State} {a : Addr} (h : s.mem.wf = true) : (s.memWrite a v).mem.wf = true :=
  write_wf h a.isLt

/-- The reset memory is in canonical form. -/
theorem reset_mem_wf : State.reset.mem.wf = true := rfl

/-- Every byte of the reset memory is a draw of its own (R13, R164). -/
theorem reset_mem_read : State.reset.mem.read a = Config.launchDraw a := rfl

end Sys2Proof.Machine
end

