-- ==== Sys2Proof/Laws/Ops.lean ====
section
/-! SUPPORT. What an operation on the machine can do: it always answers a next state, and that state is one of three. -/

namespace Sys2Proof.Machine

variable {s t : State} {body : State → Except FaultCode State} {c : FaultCode}

/-- While the fault register holds a code, an operation changes nothing (R150). -/
theorem runOp_faulted (h : s.fault = some c) : runOp s body = .next s := by simp [runOp, h]

theorem runOp_ok (h : s.fault = none) (hb : body s = .ok t) : runOp s body = .next t := by simp [runOp, h, hb]

/-- An operation that raises a fault does nothing else (R150). -/
theorem runOp_error (h : s.fault = none) (hb : body s = .error c) : runOp s body = .next (raiseFault c s) := by
  simp [runOp, h, hb]

/-- Everything an operation can do. -/
theorem runOp_cases (h : runOp s body = .next t) :
    ((∃ c, s.fault = some c) ∧ t = s) ∨ (s.fault = none ∧ body s = .ok t)
      ∨ (s.fault = none ∧ ∃ c, body s = .error c ∧ t = raiseFault c s) := by
  unfold runOp at h
  split at h
  · rename_i c hc
    cases h
    exact .inl ⟨⟨c, hc⟩, rfl⟩
  · rename_i hn
    split at h <;> rename_i r hr <;> cases h
    · exact .inr (.inl ⟨hn, hr⟩)
    · exact .inr (.inr ⟨hn, _, hr, rfl⟩)

/-- No operation stops the model. -/
theorem runOp_next (s : State) (body : State → Except FaultCode State) : ∃ t, runOp s body = .next t := by
  unfold runOp
  split
  · exact ⟨_, rfl⟩
  · split <;> exact ⟨_, rfl⟩

/-- A body that raises no fault and keeps a property of the state keeps it through the operation, faults and refusals
included. -/
theorem runOp_keeps {P : State → Prop} (h : runOp s body = .next t) (hs : P s) (hr : ∀ c, P (raiseFault c s))
    (hb : ∀ u, body s = .ok u → P u) : P t := by
  obtain ⟨_, rfl⟩ | ⟨_, hok⟩ | ⟨_, c, _, rfl⟩ := runOp_cases h
  · exact hs
  · exact hb _ hok
  · exact hr c

@[simp] theorem raiseFault_fault : (raiseFault c s).fault = some c := rfl
@[simp] theorem raiseFault_eq : raiseFault c s = s.setFault (some c) := rfl

/-! ### RESET, field by field -/

@[simp] theorem resetBlock_cfg : (resetBlock s).cfg = s.cfg := rfl
@[simp] theorem resetBlock_ppu : (resetBlock s).ppu = Ppu.reset := rfl
@[simp] theorem resetBlock_f : (resetBlock s).f = Fetcher.reset := rfl
@[simp] theorem resetBlock_q : (resetBlock s).q = [] := rfl
@[simp] theorem resetBlock_w : (resetBlock s).w = Wave.reset s.draws := rfl
@[simp] theorem resetBlock_fault : (resetBlock s).fault = none := rfl
@[simp] theorem resetBlock_mem : (resetBlock s).mem = s.mem := rfl
@[simp] theorem resetBlock_trace : (resetBlock s).trace = s.trace := rfl
@[simp] theorem resetBlock_script : (resetBlock s).script = s.script := rfl
@[simp] theorem resetBlock_result : (resetBlock s).result = s.result := rfl
@[simp] theorem resetBlock_draws : (resetBlock s).draws = s.draws + 16 := rfl

end Sys2Proof.Machine
end

