-- ==== Sys2Proof/Laws/Queue.lean ====
section
/-! SUPPORT. The queue's operations: what each answers, and the lengths they leave. -/

namespace Sys2Proof.Machine

@[simp] theorem Lanes.length_toList (l : Lanes) : l.toList.length = 8 := rfl

theorem queuePush8_ok {q : List Colour} (c : Lanes) (h : q.length ≤ 8) : queuePush8 q c = .ok (q ++ c.toList) := by
  simp [queuePush8, Nat.not_lt.mpr h]

theorem queuePush8_cases {q q' : List Colour} {c : Lanes} (h : queuePush8 q c = .ok q') :
    q.length ≤ 8 ∧ q' = q ++ c.toList := by
  unfold queuePush8 at h
  split at h
  · cases h
  · rename_i hl
    cases h
    exact ⟨Nat.not_lt.mp hl, rfl⟩

theorem queueMix_ok {q : List Colour} {n : Nat} (p : Colour) (b : Bool) (h8 : 8 ≤ q.length) (hn : n < q.length) :
    queueMix q n p b = .ok (q.set n (mixColour (q.getD n 0) p b)) := by
  simp [queueMix, show ¬ (q.length < 8 ∨ q.length ≤ n) by omega]

theorem queueMix_cases {q q' : List Colour} {n : Nat} {p : Colour} {b : Bool} (h : queueMix q n p b = .ok q') :
    8 ≤ q.length ∧ n < q.length ∧ q' = q.set n (mixColour (q.getD n 0) p b) := by
  unfold queueMix at h
  split at h
  · cases h
  · rename_i hl
    cases h
    simp only [Config.queueLow, not_or, Nat.not_lt, Nat.not_le] at hl
    exact ⟨hl.1, hl.2, rfl⟩

/-- Mixing a row changes no length. -/
theorem queueMixFrom_length {ps q q' : List Colour} {n : Nat} {b : Bool} (h : queueMixFrom q n ps b = .ok q') :
    q'.length = q.length := by
  induction ps generalizing q n with
  | nil => cases h; rfl
  | cons p rest ih =>
    simp only [queueMixFrom] at h
    split at h
    · rename_i q1 h1
      rw [ih h, (queueMix_cases h1).2.2, List.length_set]
    · cases h

/-- A row of pixels that fits is mixed without a fault. -/
theorem queueMixFrom_ok {ps q : List Colour} {n : Nat} (b : Bool) (h8 : 8 ≤ q.length) (hn : n + ps.length ≤ q.length) :
    ∃ q', queueMixFrom q n ps b = .ok q' := by
  induction ps generalizing q n with
  | nil => exact ⟨q, rfl⟩
  | cons p rest ih =>
    simp only [List.length_cons] at hn
    simp only [queueMixFrom, queueMix_ok p b h8 (show n < q.length by omega)]
    exact ih (by simpa using h8) (by simp; omega)

/-- Mixing a row leaves each element below the row's first offset alone. -/
theorem queueMixFrom_below {ps q q' : List Colour} {n i : Nat} {b : Bool} (h : queueMixFrom q n ps b = .ok q')
    (hi : i < n) : q'.getD i 0 = q.getD i 0 := by
  induction ps generalizing q n with
  | nil => cases h; rfl
  | cons p rest ih =>
    simp only [queueMixFrom] at h
    split at h
    · rename_i q1 h1
      rw [ih h (by omega), (queueMix_cases h1).2.2]
      simp [List.getD_eq_getElem?_getD, show n ≠ i by omega]
    · cases h

/-- What mixing a row does at every offset: the row's pixels are mixed in, each into its own element, and every other
element stays (R91). -/
theorem queueMixFrom_getD {ps q q' : List Colour} {n : Nat} {b : Bool} (h : queueMixFrom q n ps b = .ok q') (i : Nat) :
    q'.getD i 0 =
      if n ≤ i ∧ i < n + ps.length then mixColour (q.getD i 0) (ps.getD (i - n) 0) b else q.getD i 0 := by
  induction ps generalizing q n with
  | nil => cases h; simp
  | cons p rest ih =>
    have h' := h
    simp only [queueMixFrom] at h'
    split at h'
    · rename_i q1 h1
      obtain ⟨_, hn, rfl⟩ := queueMix_cases h1
      by_cases hi : i = n
      · subst hi
        rw [queueMixFrom_below h' (by omega)]
        simp [List.getD_eq_getElem?_getD, hn]
      · rw [ih h', show (q.set n _).getD i 0 = q.getD i 0 by
          simp [List.getD_eq_getElem?_getD, Ne.symm hi]]
        by_cases hr : n + 1 ≤ i ∧ i < n + 1 + rest.length
        · rw [if_pos hr, if_pos (by simp; omega), show i - n = (i - (n + 1)) + 1 by omega]
          rfl
        · rw [if_neg hr, if_neg (by simp; omega)]
    · cases h'

end Sys2Proof.Machine
end

