-- ==== Sys2Proof/Laws/Exec.lean ====
section
/-! SUPPORT. The operation each instruction but RESET is: a body run under the fault register. A proof rewrites with one
of these and cites `runOp_ok`, `runOp_pure`, `runOp_error` or `runOp_cases`. -/

namespace Sys2Proof.Machine

theorem runOp_pure {s : State} (g : State → State) (h : s.fault = none) :
    runOp s (fun s => .ok (g s)) = .next (g s) := runOp_ok h rfl

theorem exec_ppuTick (s : State) : exec .ppuTick s = runOp s tickPpu := rfl
theorem exec_lineBlank (s : State) : exec .lineBlank s = runOp s (fun s => .ok (stepLineBlank s)) := rfl
theorem exec_frameBlank (s : State) : exec .frameBlank s = runOp s (fun s => .ok (stepFrameBlank s)) := rfl
theorem exec_search (s : State) : exec .search s = runOp s (fun s => .ok (stepSearch s)) := rfl
theorem exec_transfer (s : State) : exec .transfer s = runOp s stepTransfer := rfl
theorem exec_waveTick (s : State) : exec .waveTick s = runOp s (fun s => .ok (tickWave s)) := rfl
theorem exec_regWrite (a : Addr) (d : Byte) (s : State) :
    exec (.regWrite a d) s = runOp s (fun s => .ok (regWrite a d s)) := rfl
theorem exec_regRead (a : Addr) (s : State) : exec (.regRead a) s = runOp s (fun s => .ok (regRead a s)) := rfl
theorem exec_memWrite (a : Addr) (d : Byte) (s : State) :
    exec (.memWrite a d) s = runOp s (fun s => .ok (s.memWrite a d)) := rfl
theorem exec_lcdc (acc : BusAccess) (s : State) :
    exec (.lcdc acc) s = runOp s (fun s => .ok (busAccess .lcdc acc s)) := rfl
theorem exec_ly (acc : BusAccess) (s : State) : exec (.ly acc) s = runOp s (fun s => .ok (busAccess .ly acc s)) := rfl
theorem exec_lyc (acc : BusAccess) (s : State) :
    exec (.lyc acc) s = runOp s (fun s => .ok (busAccess .lyc acc s)) := rfl
theorem exec_nr30 (acc : BusAccess) (s : State) :
    exec (.nr30 acc) s = runOp s (fun s => .ok (busAccess .nr30 acc s)) := rfl
theorem exec_nr31 (acc : BusAccess) (s : State) :
    exec (.nr31 acc) s = runOp s (fun s => .ok (busAccess .nr31 acc s)) := rfl
theorem exec_nr32 (acc : BusAccess) (s : State) :
    exec (.nr32 acc) s = runOp s (fun s => .ok (busAccess .nr32 acc s)) := rfl
theorem exec_nr33 (acc : BusAccess) (s : State) :
    exec (.nr33 acc) s = runOp s (fun s => .ok (busAccess .nr33 acc s)) := rfl
theorem exec_nr34 (acc : BusAccess) (s : State) :
    exec (.nr34 acc) s = runOp s (fun s => .ok (busAccess .nr34 acc s)) := rfl
theorem exec_waveTable (k : BitVec 4) (acc : BusAccess) (s : State) :
    exec (.waveTable k acc) s = runOp s (fun s => .ok (busAccess (.wave k) acc s)) := rfl
theorem exec_qClear (s : State) : exec .qClear s = runOp s (fun s => .ok (s.setQ [])) := rfl
theorem exec_qPush8 (c : Lanes) (s : State) :
    exec (.qPush8 c) s = runOp s (fun s => withQueue s (queuePush8 s.q c)) := rfl
theorem exec_qPop (s : State) :
    exec .qPop s =
      runOp s (fun s => .ok ((s.setQ (popQueue (queuePop s.q))).setResult (popResult (queuePop s.q)))) := rfl
theorem exec_qMix (offset : BitVec 4) (pixel : Colour) (behind : Bool) (s : State) :
    exec (.qMix offset pixel behind) s =
      runOp s (fun s => withQueue s (queueMix s.q offset.toNat pixel behind)) := rfl
theorem exec_qSize (s : State) : exec .qSize s = runOp s (fun s => .ok (s.setResult (.size s.q.length))) := rfl
theorem exec_fStart (mapAddr dataAddr : Addr) (tileOffset : BitVec 5) (tileLine : BitVec 3) (signedId : Bool)
    (s : State) :
    exec (.fStart mapAddr dataAddr tileOffset tileLine signedId) s =
      runOp s (fun s => .ok (startFetch mapAddr dataAddr tileOffset tileLine signedId s)) := rfl
theorem exec_fFetchSprite (oam : BitVec 6) (x : Byte) (spriteOffset spriteLine : BitVec 3) (s : State) :
    exec (.fFetchSprite oam x spriteOffset spriteLine) s = runOp s (fetchSprite oam x spriteOffset spriteLine) := rfl
theorem exec_fTick (s : State) : exec .fTick s = runOp s tickFetcher := rfl
theorem exec_readTileId (s : State) : exec .readTileId s = runOp s (fun s => .ok (stepReadTileId s)) := rfl
theorem exec_readTileData0 (s : State) : exec .readTileData0 s = runOp s (fun s => .ok (stepReadTileData0 s)) := rfl
theorem exec_readTileData1 (s : State) : exec .readTileData1 s = runOp s (fun s => .ok (stepReadTileData1 s)) := rfl
theorem exec_pushToFifo (s : State) : exec .pushToFifo s = runOp s stepPushToFifo := rfl
theorem exec_readSpriteId (s : State) : exec .readSpriteId s = runOp s (fun s => .ok (stepReadSpriteId s)) := rfl
theorem exec_readSpriteFlags (s : State) :
    exec .readSpriteFlags s = runOp s (fun s => .ok (stepReadSpriteFlags s)) := rfl
theorem exec_readSpriteData0 (s : State) :
    exec .readSpriteData0 s = runOp s (fun s => .ok (stepReadSpriteData0 s)) := rfl
theorem exec_readSpriteData1 (s : State) :
    exec .readSpriteData1 s = runOp s (fun s => .ok (stepReadSpriteData1 s)) := rfl
theorem exec_mixInFifo (s : State) : exec .mixInFifo s = runOp s stepMixInFifo := rfl

end Sys2Proof.Machine
end

