-- ==== Sys2Proof/Laws/Fetch.lean ====
section
/-! SUPPORT. The fetcher: what a fetch step, F_TICK and F_FETCH_SPRITE can do. -/

namespace Sys2Proof.Machine

variable {s t : State}

/-- A fetch step touches the fetcher and the queue alone, and leaves the context, the operands of the sprite fetch, the
saved state and the enable. -/
theorem fetchStepOf_frame {st : FetchState} (h : fetchStepOf st s = .ok t) :
    t = (s.setF t.f).setQ t.q ∧ t.f.enabled = s.f.enabled ∧ t.f.div = s.f.div ∧ t.f.old = s.f.old
      ∧ t.f.sprOam = s.f.sprOam := by
  cases st <;> simp only [fetchStepOf, stepPushToFifo, stepMixInFifo, withQueue] at h
  case pushToFifo | mixInFifo =>
    split at h
    · cases h; exact ⟨rfl, rfl, rfl, rfl, rfl⟩
    · split at h <;> cases h; exact ⟨rfl, rfl, rfl, rfl, rfl⟩
  all_goals cases h; exact ⟨rfl, rfl, rfl, rfl, rfl⟩

/-- No fetch step of a named state raises a fault (R104, R109). -/
theorem fetchStepOf_ok (st : FetchState) (s : State) : ∃ t, fetchStepOf st s = .ok t := by
  cases st
  case pushToFifo =>
    simp only [fetchStepOf, stepPushToFifo]
    split
    · exact ⟨_, rfl⟩
    · rw [queuePush8_ok _ (by simp only [Config.queueLow] at *; omega)]; exact ⟨_, rfl⟩
  case mixInFifo =>
    simp only [fetchStepOf, stepMixInFifo]
    split
    · exact ⟨_, rfl⟩
    · obtain ⟨q', hq⟩ := queueMixFrom_ok (q := s.q) (n := 0)
        (ps := (decodeRow s.f.sprData0 s.f.sprData1 (spriteHFlip s.f.sprFlags)).toList) (spriteBehind s.f.sprFlags)
        (by simp only [Config.queueLow] at *; omega) (by simp [Config.queueLow] at *; omega)
      rw [hq]; exact ⟨_, rfl⟩
  all_goals exact ⟨_, rfl⟩

/-- What a fetch step of a named state does to the state code (R97): it stays, or moves along the path, or the sprite path
ends in the saved state. -/
theorem fetchStepOf_state {st : FetchState} (h : fetchStepOf st s = .ok t) (hs : s.f.state = st.code) :
    t.f.state = s.f.state
      ∨ (s.f.state.toNat ≤ 2 ∧ t.f.state.toNat = s.f.state.toNat + 1)
      ∨ (s.f.state.toNat = 3 ∧ t.f.state.toNat = 0)
      ∨ (4 ≤ s.f.state.toNat ∧ s.f.state.toNat ≤ 7 ∧ t.f.state.toNat = s.f.state.toNat + 1)
      ∨ (s.f.state.toNat = 8 ∧ t.f.state = s.f.old) := by
  cases st <;> simp only [fetchStepOf, stepPushToFifo, stepMixInFifo, withQueue] at h
  case pushToFifo | mixInFifo =>
    split at h
    · cases h; exact .inl rfl
    · split at h <;> cases h; simp [hs, FetchState.code]
  all_goals
    cases h
    simp [hs, FetchState.code, stepReadTileId, stepReadTileData0, stepReadTileData1, stepReadSpriteId,
      stepReadSpriteFlags, stepReadSpriteData0, stepReadSpriteData1]

/-- A fetch step keeps the queue within its capacity (R90). -/
theorem fetchStepOf_queue {st : FetchState} (h : fetchStepOf st s = .ok t) (hq : s.q.length ≤ 16) :
    t.q.length ≤ 16 := by
  cases st <;> simp only [fetchStepOf, stepPushToFifo, stepMixInFifo, withQueue] at h
  case pushToFifo =>
    split at h
    · cases h; exact hq
    · split at h <;> cases h
      rename_i hp
      obtain ⟨hl, rfl⟩ := queuePush8_cases hp
      simp; omega
  case mixInFifo =>
    split at h
    · cases h; exact hq
    · split at h <;> cases h
      rename_i hp
      simpa [queueMixFrom_length hp] using hq
  all_goals cases h; exact hq

/-- Everything F_TICK can do (R100). -/
theorem tickFetcher_cases (h : tickFetcher s = .ok t) :
    (s.f.enabled = false ∧ t = s)
      ∨ (s.f.enabled = true ∧ s.f.div = 0 ∧ t = s.setF { s.f with div := 1 })
      ∨ (s.f.enabled = true ∧ 1 ≤ s.f.div ∧ ∃ st, s.f.state = FetchState.code st
          ∧ fetchStepOf st (s.setF { s.f with div := 0 }) = .ok t) := by
  unfold tickFetcher at h
  split at h
  · cases h; exact .inl ⟨‹_›, rfl⟩
  · rename_i he
    replace he : s.f.enabled = true := by simpa using he
    split at h
    · rename_i hd
      simp only [Config.fetchClockFactor] at hd
      have h0 : s.f.div = 0 := by omega
      cases h; exact .inr (.inl ⟨he, h0, by rw [h0]⟩)
    · rename_i hd
      simp only [Config.fetchClockFactor] at hd
      simp only [fetchStep, setF_f] at h
      split at h
      · rename_i st hst
        exact .inr (.inr ⟨he, by omega, st, FetchState.code_of_ofCode hst, h⟩)
      · cases h

/-- F_TICK completes unless it reaches a fetch step with a reserved code (R85, R100). -/
theorem tickFetcher_ok (h : s.f.state.toNat ≤ 8) : ∃ t, tickFetcher s = .ok t := by
  unfold tickFetcher
  split
  · exact ⟨_, rfl⟩
  · split
    · exact ⟨_, rfl⟩
    · obtain ⟨st, hst⟩ := FetchState.exists_of_le h
      simp only [fetchStep, setF_f, hst]
      exact fetchStepOf_ok st _

/-- F_TICK's one fault (R85). -/
theorem tickFetcher_error {c : FaultCode} (h : tickFetcher s = .error c) :
    c = .badState ∧ 9 ≤ s.f.state.toNat ∧ s.f.enabled = true ∧ 1 ≤ s.f.div := by
  by_cases hs : s.f.state.toNat ≤ 8
  · obtain ⟨t, ht⟩ := tickFetcher_ok hs
    rw [ht] at h; cases h
  · unfold tickFetcher at h
    split at h
    · cases h
    · rename_i he
      replace he : s.f.enabled = true := by simpa using he
      split at h
      · cases h
      · rename_i hd
        simp only [Config.fetchClockFactor] at hd
        simp only [fetchStep, setF_f, FetchState.ofCode_reserved (show 9 ≤ s.f.state.toNat by omega)] at h
        cases h
        exact ⟨rfl, by omega, he, by omega⟩

/-- F_TICK touches the fetcher and the queue alone. -/
theorem tickFetcher_frame (h : tickFetcher s = .ok t) :
    t = (s.setF t.f).setQ t.q ∧ t.f.enabled = s.f.enabled ∧ t.f.old = s.f.old ∧ t.f.sprOam = s.f.sprOam := by
  obtain ⟨_, rfl⟩ | ⟨_, _, rfl⟩ | ⟨_, _, st, _, hf⟩ := tickFetcher_cases h
  · exact ⟨rfl, rfl, rfl, rfl⟩
  · exact ⟨rfl, rfl, rfl, rfl⟩
  · obtain ⟨h1, h2, -, h4, h5⟩ := fetchStepOf_frame hf
    exact ⟨h1, h2, h4, h5⟩

/-- F_TICK keeps the queue within its capacity (R90). -/
theorem tickFetcher_queue (h : tickFetcher s = .ok t) (hq : s.q.length ≤ 16) : t.q.length ≤ 16 := by
  obtain ⟨_, rfl⟩ | ⟨_, _, rfl⟩ | ⟨_, _, st, _, hf⟩ := tickFetcher_cases h
  · exact hq
  · exact hq
  · exact fetchStepOf_queue hf hq

/-- F_TICK keeps the divider below its factor (R41). -/
theorem tickFetcher_div (h : tickFetcher s = .ok t) (hd : s.f.div < 2) : t.f.div < 2 := by
  obtain ⟨_, rfl⟩ | ⟨_, _, rfl⟩ | ⟨_, _, st, _, hf⟩ := tickFetcher_cases h
  · exact hd
  · simp
  · rw [(fetchStepOf_frame hf).2.2.1]; simp

/-- F_TICK follows the transition graph (R97), so it leaves no defined state for a reserved one. -/
theorem tickFetcher_state (h : tickFetcher s = .ok t) (hs : s.f.state.toNat ≤ 8) (ho : s.f.old.toNat ≤ 3) :
    t.f.state.toNat ≤ 8 := by
  obtain ⟨_, rfl⟩ | ⟨_, _, rfl⟩ | ⟨_, _, st, hst, hf⟩ := tickFetcher_cases h
  · exact hs
  · exact hs
  · obtain he | h2 | h3 | h4 | h5 := fetchStepOf_state hf hst
    · rw [he]; exact hs
    all_goals simp only [setF_f] at *
    · omega
    · omega
    · omega
    · rw [h5.2]; omega

/-- F_FETCH_SPRITE on an enabled fetcher in a background state (R99). -/
theorem fetchSprite_ok (oam : BitVec 6) (x : Byte) (off line : BitVec 3) (he : s.f.enabled = true)
    (hs : s.f.state.toNat ≤ 3) :
    fetchSprite oam x off line s = .ok (s.setF { s.f with
      old := s.f.state, state := FetchState.readSpriteId.code, sprOam := oam, sprX := x, sprOffset := off,
      sprLine := line }) := by
  simp [fetchSprite, he, inSpritePath, show ¬ 4 ≤ s.f.state.toNat by omega]

/-- Everything F_FETCH_SPRITE can do when it raises no fault. -/
theorem fetchSprite_cases {oam : BitVec 6} {x : Byte} {off line : BitVec 3} (h : fetchSprite oam x off line s = .ok t) :
    s.f.enabled = true ∧ inSpritePath s.f.state = false
      ∧ t = s.setF { s.f with
          old := s.f.state, state := FetchState.readSpriteId.code, sprOam := oam, sprX := x, sprOffset := off,
          sprLine := line } := by
  unfold fetchSprite at h
  split at h
  · cases h
  · split at h
    · cases h
    · cases h
      rename_i h1 h2
      exact ⟨by simpa using h1, by simpa using h2, rfl⟩

end Sys2Proof.Machine
end

