-- ==== Sys2Proof/Laws/Scanline.lean ====
section
/-! SUPPORT. The Scanline Mode Controller: what each mode step can do, and what every PPU_TICK leaves alone. -/

namespace Sys2Proof.Machine

variable {s t : State}

/-! ### Search -/

/-- `select_sprite` changes the buffer alone. -/
theorem selectSprite_frame (k : Nat) (s : State) :
    selectSprite k s = s.setPpu { s.ppu with sprites := (selectSprite k s).ppu.sprites } := by
  simp only [selectSprite]
  split <;> rfl

/-- Everything `select_sprite` can do to the buffer (R116). -/
theorem selectSprite_sprites (k : Nat) (s : State) :
    (selectSprite k s).ppu.sprites = s.ppu.sprites
      ∨ (s.ppu.sprites.length < s.cfg.maxSprites
          ∧ ∃ e : SpriteEntry, (selectSprite k s).ppu.sprites = s.ppu.sprites ++ [e]
              ∧ e.oam = BitVec.ofNat 6 k ∧ e.fetched = false) := by
  simp only [selectSprite]
  split
  · rename_i h
    exact .inr ⟨h.1, _, rfl, rfl, rfl⟩
  · exact .inl rfl

/-- `enter_transfer` leaves the lines, the counters and the buffer. -/
theorem enterTransfer_ppu (s : State) : (enterTransfer s).ppu = { s.ppu with x := 0, mode := .transfer } := rfl

/-! ### Transfer -/

/-- Marking the sprite found keeps the buffer but for that entry's mark. -/
theorem takeSprite_split {x : Byte} {es marked : List SpriteEntry} {e : SpriteEntry}
    (h : takeSprite x es = some (e, marked)) :
    ∃ before after, es = before ++ e :: after ∧ marked = before ++ { e with fetched := true } :: after
      ∧ triggersAt x e = true ∧ ∀ b ∈ before, triggersAt x b = false := by
  induction es generalizing marked with
  | nil => cases h
  | cons e' rest ih =>
    simp only [takeSprite] at h
    split at h
    · cases h
      exact ⟨[], rest, rfl, rfl, ‹_›, by simp⟩
    · rename_i hn
      split at h
      · rename_i found marked' hr
        cases h
        obtain ⟨before, after, rfl, rfl, h1, h2⟩ := ih hr
        refine ⟨e' :: before, after, rfl, rfl, h1, ?_⟩
        intro b hb
        rcases List.mem_cons.mp hb with rfl | hb
        · simpa using hn
        · exact h2 b hb
      · cases h

/-- The first entry that starts at the column is the one found. -/
theorem takeSprite_first {x : Byte} (before after : List SpriteEntry) (e : SpriteEntry)
    (hb : ∀ b ∈ before, triggersAt x b = false) (he : triggersAt x e = true) :
    takeSprite x (before ++ e :: after) = some (e, before ++ { e with fetched := true } :: after) := by
  induction before with
  | nil => simp [takeSprite, he]
  | cons b rest ih =>
    simp [takeSprite, hb b (by simp), ih (fun c hc => hb c (by simp [hc]))]

theorem takeSprite_none {x : Byte} {es : List SpriteEntry} (h : ∀ e ∈ es, triggersAt x e = false) :
    takeSprite x es = none := by
  induction es with
  | nil => rfl
  | cons e rest ih => simp [takeSprite, h e (by simp), ih (fun c hc => h c (by simp [hc]))]

/-- Everything the sprite trigger can do when it raises no fault (R119). -/
theorem spriteTrigger_cases (h : spriteTrigger s = .ok t) :
    t = s
      ∨ ∃ before after, ∃ e : SpriteEntry,
          s.f.enabled = true ∧ inSpritePath s.f.state = false ∧ 8 ≤ s.q.length ∧ lcdcSpriteOn s.ppu.lcdc = true
          ∧ s.ppu.sprites = before ++ e :: after ∧ triggersAt s.ppu.x e = true
          ∧ t = (s.setPpu { s.ppu with sprites := before ++ { e with fetched := true } :: after }).setF
              { s.f with old := s.f.state, state := FetchState.readSpriteId.code, sprOam := e.oam, sprX := e.x,
                         sprOffset := spriteOffsetOf e, sprLine := e.line } := by
  unfold spriteTrigger at h
  split at h
  · cases h; exact .inl rfl
  · rename_i hg
    simp only [not_or, Config.queueLow, Nat.not_lt] at hg
    split at h
    · cases h; exact .inl rfl
    · rename_i e marked htk
      obtain ⟨before, after, hs, rfl, htr, -⟩ := takeSprite_split htk
      obtain ⟨he, hp, rfl⟩ := fetchSprite_cases h
      exact .inr ⟨before, after, e, he, hp, hg.2.2, by simpa using hg.1, hs, htr, rfl⟩

/-- The sprite trigger raises no fault on an enabled fetcher (R119). -/
theorem spriteTrigger_ok (he : s.f.enabled = true) : ∃ t, spriteTrigger s = .ok t := by
  unfold spriteTrigger
  split
  · exact ⟨_, rfl⟩
  · rename_i hg
    simp only [not_or] at hg
    split
    · exact ⟨_, rfl⟩
    · simp [fetchSprite, he, hg.2.1]

/-- The sprite trigger's one fault: a disabled fetcher (R151). -/
theorem spriteTrigger_error {c : FaultCode} (h : spriteTrigger s = .error c) :
    c = .spriteWhileDisabled ∧ s.f.enabled = false := by
  unfold spriteTrigger at h
  split at h
  · cases h
  · rename_i hg
    simp only [not_or] at hg
    split at h
    · cases h
    · by_cases he : s.f.enabled = true
      · simp [fetchSprite, he, hg.2.1] at h
      · simp [fetchSprite, he] at h
        exact ⟨h.symm, by simpa using he⟩

/-- Everything parts (c) and (d) of a Transfer step can do (R120, R121). -/
theorem popPixel_cases (s : State) :
    (s.q = [] ∧ popPixel s = s)
      ∨ ∃ c rest, s.q = c :: rest
          ∧ (((s.ppu.x + 1).toNat ≠ 160
                ∧ popPixel s = ((s.setQ rest).emit (pixelEvent s.ppu.lcdc c)).setPpu { s.ppu with x := s.ppu.x + 1 })
            ∨ ((s.ppu.x + 1).toNat = 160
                ∧ popPixel s =
                    ((((s.setQ rest).emit (pixelEvent s.ppu.lcdc c)).setF { s.f with enabled := false }).emit
                      .endOfLine).setPpu { s.ppu with x := s.ppu.x + 1, mode := .lineBlank })) := by
  unfold popPixel
  cases hq : s.q with
  | nil => exact .inl ⟨rfl, rfl⟩
  | cons c rest =>
    refine .inr ⟨c, rest, rfl, ?_⟩
    by_cases hx : (s.ppu.x + 1).toNat = 160
    · exact .inr ⟨hx, by simp only [queuePop, setPpu_ppu, hx, Config.screenWidth, if_true]; rfl⟩
    · exact .inl ⟨hx, by simp only [queuePop, setPpu_ppu, hx, Config.screenWidth, if_false]⟩

/-- A Transfer step in its parts (R117). -/
theorem stepTransfer_cases (h : stepTransfer s = .ok t) :
    ∃ s1 s2, tickFetcher s = .ok s1 ∧ spriteTrigger s1 = .ok s2
      ∧ ((popAllowed s2 = true ∧ t = popPixel s2) ∨ (popAllowed s2 = false ∧ t = s2)) := by
  unfold stepTransfer at h
  split at h
  · cases h
  · rename_i s1 h1
    split at h
    · cases h
    · rename_i s2 h2
      cases h
      refine ⟨s1, s2, h1, h2, ?_⟩
      by_cases hp : popAllowed s2 = true
      · exact .inl ⟨hp, by simp [hp]⟩
      · exact .inr ⟨by simpa using hp, by simp [hp]⟩

/-- A Transfer step raises no fault with the fetcher enabled and in a defined state. -/
theorem stepTransfer_ok (he : s.f.enabled = true) (hs : s.f.state.toNat ≤ 8) : ∃ t, stepTransfer s = .ok t := by
  obtain ⟨s1, h1⟩ := tickFetcher_ok hs
  obtain ⟨s2, h2⟩ := spriteTrigger_ok (s := s1) (by rw [(tickFetcher_frame h1).2.1]; exact he)
  exact ⟨if popAllowed s2 then popPixel s2 else s2, by simp only [stepTransfer, h1, h2]⟩

/-- What a state's parts outside the video unit are: everything a PPU_TICK leaves. -/
structure SameOutsideVideo (s t : State) : Prop where
  cfg : t.cfg = s.cfg
  w : t.w = s.w
  fault : t.fault = s.fault
  mem : t.mem = s.mem
  script : t.script = s.script
  result : t.result = s.result
  draws : t.draws = s.draws
  lcdc : t.ppu.lcdc = s.ppu.lcdc
  lyc : t.ppu.lyc = s.ppu.lyc
  trace : ∃ es, t.trace = s.trace ++ es

theorem SameOutsideVideo.refl (s : State) : SameOutsideVideo s s :=
  ⟨rfl, rfl, rfl, rfl, rfl, rfl, rfl, rfl, rfl, [], by simp⟩

theorem SameOutsideVideo.trans {s t u : State} (h : SameOutsideVideo s t) (h' : SameOutsideVideo t u) :
    SameOutsideVideo s u := by
  obtain ⟨es, he⟩ := h.trace
  obtain ⟨es', he'⟩ := h'.trace
  exact ⟨h'.cfg.trans h.cfg, h'.w.trans h.w, h'.fault.trans h.fault, h'.mem.trans h.mem, h'.script.trans h.script,
    h'.result.trans h.result, h'.draws.trans h.draws, h'.lcdc.trans h.lcdc, h'.lyc.trans h.lyc,
    es ++ es', by rw [he', he, List.append_assoc]⟩

/-- The fetcher and the queue are all F_TICK touches. -/
theorem tickFetcher_same (h : tickFetcher s = .ok t) : SameOutsideVideo s t ∧ t.ppu = s.ppu := by
  rw [(tickFetcher_frame h).1]
  exact ⟨⟨rfl, rfl, rfl, rfl, rfl, rfl, rfl, rfl, rfl, [], by simp⟩, rfl⟩

theorem spriteTrigger_same (h : spriteTrigger s = .ok t) : SameOutsideVideo s t := by
  obtain rfl | ⟨_, _, e, _, _, _, _, _, _, rfl⟩ := spriteTrigger_cases h
  · exact .refl _
  · exact ⟨rfl, rfl, rfl, rfl, rfl, rfl, rfl, rfl, rfl, [], by simp⟩

theorem popPixel_same (s : State) : SameOutsideVideo s (popPixel s) := by
  obtain ⟨_, h⟩ | ⟨c, rest, _, ⟨_, h⟩ | ⟨_, h⟩⟩ := popPixel_cases s
  · rw [h]; exact .refl _
  · rw [h]; exact ⟨rfl, rfl, rfl, rfl, rfl, rfl, rfl, rfl, rfl, _, rfl⟩
  · rw [h]; exact ⟨rfl, rfl, rfl, rfl, rfl, rfl, rfl, rfl, rfl, [pixelEvent s.ppu.lcdc c, .endOfLine], by simp⟩

theorem stepTransfer_same (h : stepTransfer s = .ok t) : SameOutsideVideo s t := by
  obtain ⟨s1, s2, h1, h2, ⟨_, rfl⟩ | ⟨_, rfl⟩⟩ := stepTransfer_cases h
  · exact ((tickFetcher_same h1).1.trans (spriteTrigger_same h2)).trans (popPixel_same s2)
  · exact (tickFetcher_same h1).1.trans (spriteTrigger_same h2)

theorem stepSearch_same (s : State) : SameOutsideVideo s (stepSearch s) := by
  have h0 : ∀ k (u : State), SameOutsideVideo u (selectSprite k u) := by
    intro k u
    rw [selectSprite_frame]
    exact ⟨rfl, rfl, rfl, rfl, rfl, rfl, rfl, rfl, rfl, [], by simp⟩
  have h1 : ∀ u : State, SameOutsideVideo u (enterTransfer u) := fun u =>
    ⟨rfl, rfl, rfl, rfl, rfl, rfl, rfl, rfl, rfl, [], by simp [enterTransfer, startFetch]⟩
  have h2 : SameOutsideVideo s (s.setPpu { s.ppu with sprites := [] }) :=
    ⟨rfl, rfl, rfl, rfl, rfl, rfl, rfl, rfl, rfl, [], by simp⟩
  simp only [stepSearch]
  split <;> split
  · exact (h2.trans (h0 _ _)).trans (h1 _)
  · exact (h0 _ _).trans (h1 _)
  · exact h2.trans (h0 _ _)
  · exact h0 _ _

theorem stepLineBlank_same (s : State) : SameOutsideVideo s (stepLineBlank s) := by
  simp only [stepLineBlank]
  split
  · split
    · exact ⟨rfl, rfl, rfl, rfl, rfl, rfl, rfl, rfl, rfl, _, rfl⟩
    · exact ⟨rfl, rfl, rfl, rfl, rfl, rfl, rfl, rfl, rfl, [], by simp⟩
  · exact .refl _

theorem stepFrameBlank_same (s : State) : SameOutsideVideo s (stepFrameBlank s) := by
  simp only [stepFrameBlank]
  split
  · split <;> exact ⟨rfl, rfl, rfl, rfl, rfl, rfl, rfl, rfl, rfl, [], by simp⟩
  · exact .refl _

theorem modeStep_same {m : Mode} (h : modeStep m s = .ok t) : SameOutsideVideo s t := by
  cases m <;> simp only [modeStep] at h
  case transfer => exact stepTransfer_same h
  all_goals cases h
  · exact stepLineBlank_same _
  · exact stepFrameBlank_same _
  · exact stepSearch_same _

theorem setPpu_same {s : State} {p : Ppu} (h1 : p.lcdc = s.ppu.lcdc) (h2 : p.lyc = s.ppu.lyc) :
    SameOutsideVideo s (s.setPpu p) := ⟨rfl, rfl, rfl, rfl, rfl, rfl, rfl, h1, h2, [], by simp⟩

theorem controllerStep_same (h : controllerStep s = .ok t) : SameOutsideVideo s t :=
  (setPpu_same (p := { s.ppu with lineTick := s.ppu.lineTick + 1 }) rfl rfl).trans (modeStep_same h)

/-- PPU_TICK leaves everything outside the video unit, and LCDC and LYC (R46, R57). -/
theorem tickPpu_same (h : tickPpu s = .ok t) : SameOutsideVideo s t := by
  unfold tickPpu at h
  split at h
  · cases h; exact setPpu_same rfl rfl
  · exact (setPpu_same (p := { s.ppu with div := 0 }) rfl rfl).trans (controllerStep_same h)

end Sys2Proof.Machine
end

