-- ==== Sys2Proof/Laws/Wave.lean ====
section
/-! SUPPORT. The wave channel: what its five steps leave alone, and the ranges they keep. -/

namespace Sys2Proof.Machine

variable {m : Config} {w : Wave}

/-- With the latch clear there is no restart (R130). -/
theorem waveRestart_off (h : restartLatch w = false) : waveRestart m w = w := by simp [waveRestart, h]

/-- What a restart leaves alone. -/
theorem waveRestart_frame (m : Config) (w : Wave) :
    (waveRestart m w).table = w.table ∧ (waveRestart m w).nr30 = w.nr30 ∧ (waveRestart m w).nr31 = w.nr31
      ∧ (waveRestart m w).nr32 = w.nr32 ∧ (waveRestart m w).nr33 = w.nr33 := by
  unfold waveRestart
  split <;> exact ⟨rfl, rfl, rfl, rfl, rfl⟩

/-- What the phase leaves alone. -/
theorem waveAdvance_frame (m : Config) (w : Wave) :
    (waveAdvance m w).table = w.table ∧ (waveAdvance m w).nr30 = w.nr30 ∧ (waveAdvance m w).nr31 = w.nr31
      ∧ (waveAdvance m w).nr32 = w.nr32 ∧ (waveAdvance m w).nr33 = w.nr33 := by
  unfold waveAdvance outputTick
  split
  · split <;> exact ⟨rfl, rfl, rfl, rfl, rfl⟩
  · exact ⟨rfl, rfl, rfl, rfl, rfl⟩

/-- What a WAVE_TICK leaves alone (R57). -/
theorem waveAfter_frame (m : Config) (w : Wave) :
    (waveAfter m w).table = w.table ∧ (waveAfter m w).nr30 = w.nr30 ∧ (waveAfter m w).nr31 = w.nr31
      ∧ (waveAfter m w).nr32 = w.nr32 ∧ (waveAfter m w).nr33 = w.nr33 := by
  obtain ⟨h1, h2, h3, h4, h5⟩ := waveRestart_frame m w
  simp only [waveAfter]
  split
  · obtain ⟨g1, g2, g3, g4, g5⟩ := waveAdvance_frame m (waveRestart m w)
    exact ⟨g1.trans h1, g2.trans h2, g3.trans h3, g4.trans h4, g5.trans h5⟩
  · exact ⟨h1, h2, h3, h4, h5⟩

/-- The channel's divider stays below its factor (R41). -/
theorem waveAfter_div (hf : 1 ≤ m.audioClockFactor) (hw : w.div < m.audioClockFactor) :
    (waveAfter m w).div < m.audioClockFactor := by
  have h1 : (waveRestart m w).div < m.audioClockFactor := by
    unfold waveRestart
    split
    · exact hf
    · exact hw
  simp only [waveAfter]
  split
  · unfold waveAdvance
    split
    · unfold outputTick
      split <;> exact hf
    · rename_i hn
      exact Nat.lt_of_not_le hn
  · exact h1

/-- With the gate closed a tick that restarts nothing leaves the channel as it is (R131). -/
theorem waveAfter_closed (hl : restartLatch w = false) (hg : gateOpen w = false) : waveAfter m w = w := by
  simp [waveAfter, waveRestart_off hl, hg]

/-- With the gate open a tick that restarts nothing is the phase alone (R133). -/
theorem waveAfter_open (hl : restartLatch w = false) (hg : gateOpen w = true) : waveAfter m w = waveAdvance m w := by
  simp [waveAfter, waveRestart_off hl, hg]

end Sys2Proof.Machine
end

