-- ==== Sys2Proof/Laws/HostBus.lean ====
section
/-! SUPPORT. The register bus: the admitted configurations, the wave-table window, and what an access leaves alone. -/

namespace Sys2Proof

/-- The constraints of R8, one by one. -/
theorem admitted_iff (m : Config) :
    m.admitted = true ↔ 1 ≤ m.ppuClockFactor ∧ 1 ≤ m.audioClockFactor ∧ 2048 ≤ m.masterRate ∧ 40 < m.lineSteps
      ∧ m.maxSprites ≤ 40 ∧ m.registerAddrs.Nodup ∧ ∀ a ∈ m.registerAddrs, m.inWaveWindow a = false := by
  simp [Config.admitted, and_assoc]

theorem window_offset (m : Config) (k : BitVec 4) : m.waveBase + k.setWidth 16 - m.waveBase = k.setWidth 16 := by
  rw [BitVec.add_comm, BitVec.add_sub_cancel]

/-- Every byte of the table has its address in the window. -/
theorem window_in (m : Config) (k : BitVec 4) : m.inWaveWindow (m.waveBase + k.setWidth 16) = true := by
  have := k.isLt
  unfold Config.inWaveWindow
  rw [window_offset, decide_eq_true_eq, BitVec.toNat_setWidth, Config.waveBytes]
  omega

/-- Every address in the window is some byte's. -/
theorem window_byte {m : Config} {a : Addr} (h : m.inWaveWindow a = true) :
    m.waveBase + ((a - m.waveBase).setWidth 4).setWidth 16 = a := by
  simp only [Config.inWaveWindow, decide_eq_true_eq, Config.waveBytes] at h
  have hk : ((a - m.waveBase).setWidth 4).setWidth 16 = a - m.waveBase := by
    apply BitVec.eq_of_toNat_eq
    rw [BitVec.toNat_setWidth, BitVec.toNat_setWidth]
    omega
  rw [hk, BitVec.add_comm, BitVec.sub_add_cancel]

namespace Machine

/-- A register write changes one byte of the controller's or the channel's registers, and nothing outside them. -/
theorem writeReg_frame (r : RegName) (d : Byte) (s : State) :
    writeReg r d s = (s.setPpu (writeReg r d s).ppu).setW (writeReg r d s).w := by
  cases r <;> rfl

/-- A register write reaches none of the controller's counters. -/
theorem writeReg_ppu (r : RegName) (d : Byte) (s : State) :
    (writeReg r d s).ppu = { s.ppu with lcdc := (writeReg r d s).ppu.lcdc, lyc := (writeReg r d s).ppu.lyc } := by
  cases r <;> rfl

/-- A register write reaches none of the channel's counters. -/
theorem writeReg_w (r : RegName) (d : Byte) (s : State) :
    (writeReg r d s).w =
      { s.w with nr30 := (writeReg r d s).w.nr30, nr31 := (writeReg r d s).w.nr31, nr32 := (writeReg r d s).w.nr32,
                 nr33 := (writeReg r d s).w.nr33, nr34 := (writeReg r d s).w.nr34,
                 table := (writeReg r d s).w.table } := by
  cases r <;> rfl

/-- A bus read appends its event, returns its byte, may use a draw, and does nothing else. -/
theorem regRead_frame (a : Addr) (s : State) :
    ∃ (v : Byte) (n : Nat), regRead a s = ((s.emit (.regRead a v)).setResult (.byte v)).useDraws n := by
  unfold regRead
  split
  · exact ⟨_, _, rfl⟩
  · exact ⟨_, _, rfl⟩

end Machine

end Sys2Proof
end

