-- ==== Sys2Proof/Laws/PerInstr.lean ====
section
/-! SUPPORT. One lemma per constructor of Instr: the length of an instruction's record is the one R67 gives its opcode. -/

namespace Sys2Proof.Laws.RecordLength

/-- An instruction that has an OP8 record has one whose first byte is an opcode of R65 and whose length is that opcode's in
R67. -/
def Statement (i : Instr) : Prop :=
  ∀ bytes : List Byte, encodeBytes i = some bytes →
    ∃ o : Op8, Op8.ofByte (bytes.headD 0) = some o ∧ bytes.length = o.recordLength

/-- A record that begins with an opcode byte and has its length. -/
theorem of_record {i : Instr} {o : Op8} {tail : List Byte} (h : encodeBytes i = some (o.code :: tail))
    (hl : tail.length + 1 = o.recordLength) : Statement i := by
  intro bytes hb
  rw [h] at hb
  cases hb
  exact ⟨o, Op8.ofByte_code o, hl⟩

/-- A row of another format has no record. -/
theorem of_none {i : Instr} (h : encodeBytes i = none) : Statement i := by
  intro bytes hb
  rw [h] at hb
  cases hb

theorem reset : Statement .reset := of_record (o := .reset) rfl rfl
theorem ppuTick : Statement .ppuTick := of_record (o := .ppuTick) rfl rfl
theorem waveTick : Statement .waveTick := of_record (o := .waveTick) rfl rfl
theorem regWrite (a : Addr) (d : Byte) : Statement (.regWrite a d) := of_record (o := .regWrite) rfl rfl
theorem regRead (a : Addr) : Statement (.regRead a) := of_record (o := .regRead) rfl rfl
theorem memWrite (a : Addr) (d : Byte) : Statement (.memWrite a d) := of_record (o := .memWrite) rfl rfl
theorem fStart (mapAddr dataAddr : Addr) (tileOffset : BitVec 5) (tileLine : BitVec 3) (signedId : Bool) :
    Statement (.fStart mapAddr dataAddr tileOffset tileLine signedId) := of_record (o := .fStart) rfl rfl
theorem fFetchSprite (oam : BitVec 6) (x : Byte) (spriteOffset spriteLine : BitVec 3) :
    Statement (.fFetchSprite oam x spriteOffset spriteLine) := of_record (o := .fFetchSprite) rfl rfl
theorem fTick : Statement .fTick := of_record (o := .fTick) rfl rfl
theorem qClear : Statement .qClear := of_record (o := .qClear) rfl rfl
theorem qPush8 (c : Lanes) : Statement (.qPush8 c) := of_record (o := .qPush8) rfl rfl
theorem qPop : Statement .qPop := of_record (o := .qPop) rfl rfl
theorem qMix (offset : BitVec 4) (pixel : Colour) (behind : Bool) :
    Statement (.qMix offset pixel behind) := of_record (o := .qMix) rfl rfl
theorem qSize : Statement .qSize := of_record (o := .qSize) rfl rfl
theorem readTileId : Statement .readTileId := of_none rfl
theorem readTileData0 : Statement .readTileData0 := of_none rfl
theorem readTileData1 : Statement .readTileData1 := of_none rfl
theorem pushToFifo : Statement .pushToFifo := of_none rfl
theorem readSpriteId : Statement .readSpriteId := of_none rfl
theorem readSpriteFlags : Statement .readSpriteFlags := of_none rfl
theorem readSpriteData0 : Statement .readSpriteData0 := of_none rfl
theorem readSpriteData1 : Statement .readSpriteData1 := of_none rfl
theorem mixInFifo : Statement .mixInFifo := of_none rfl
theorem lineBlank : Statement .lineBlank := of_none rfl
theorem frameBlank : Statement .frameBlank := of_none rfl
theorem search : Statement .search := of_none rfl
theorem transfer : Statement .transfer := of_none rfl
theorem lcdc (acc : BusAccess) : Statement (.lcdc acc) := of_none rfl
theorem ly (acc : BusAccess) : Statement (.ly acc) := of_none rfl
theorem lyc (acc : BusAccess) : Statement (.lyc acc) := of_none rfl
theorem nr30 (acc : BusAccess) : Statement (.nr30 acc) := of_none rfl
theorem nr31 (acc : BusAccess) : Statement (.nr31 acc) := of_none rfl
theorem nr32 (acc : BusAccess) : Statement (.nr32 acc) := of_none rfl
theorem nr33 (acc : BusAccess) : Statement (.nr33 acc) := of_none rfl
theorem nr34 (acc : BusAccess) : Statement (.nr34 acc) := of_none rfl
theorem waveTable (k : BitVec 4) (acc : BusAccess) : Statement (.waveTable k acc) := of_none rfl

end Sys2Proof.Laws.RecordLength
end

