-- ==== Sys2Proof/Tests/Slice0.lean ====
section
/-! SUPPORT. Tests of one step each, with expected values from spec/95_test_vectors.md or worked out by hand from the rule
named, and for each statement that has hypotheses a witness that meets them. -/

namespace Sys2Proof.Tests

open Sys2Proof Sys2Proof.Machine

/-! ### Small states -/

/-- The next state of an outcome. -/
def nextOf (r : Host.Outcome State Fault Refusal) : Option State :=
  match r with
  | .next t => some t
  | .fault _ => none
  | .refused _ => none

/-- The state one instruction leaves. -/
def after (i : Instr) (s : State) : Option State := nextOf (exec i s)

/-- Table W of 95_test_vectors.md. -/
def tableW : Vector Byte 16 :=
  #v[0x01, 0x23, 0x45, 0x67, 0x89, 0xAB, 0xCD, 0xEF, 0xFE, 0xDC, 0xBA, 0x98, 0x76, 0x54, 0x32, 0x10]

/-- `M` as the host of 95_test_vectors.md launches it: all zero. -/
def zeroMemory : Memory := { launch := some 0, cells := [] }

/-- The reset state with table W and the host's zero memory in place of the draws. -/
def base : State := (State.reset.setW { State.reset.w with table := tableW }).setMem zeroMemory

/-- With a queue. -/
def withQ (q : List Colour) : State := base.setQ q

/-- With the control byte LCDC. -/
def withLcdc (v : Byte) (s : State) : State := s.setPpu { s.ppu with lcdc := v }

/-- Tile B, tile S, the map entry 0x9800, and OAM entry 0 with the given flags. -/
def tiles (flags : Byte) : Memory :=
  ((((((zeroMemory.write 0x9800 1).write 0x8010 0xB0).write 0x8011 0xC0).write 0x8020 0xF0).write 0x8021 0x0F).write
    0xFE02 2).write 0xFE03 flags

/-- A background fetch as F_START 0x9800, 0x8000, 0, 0, 0 leaves it, with a state code, a divider and a queue. -/
def fetching (state : BitVec 4) (div : Nat) (q : List Colour) : State :=
  ((withLcdc 0x91 base).setF { Fetcher.reset with
    mapAddr := 0x9800, dataAddr := 0x8000, state := state, div := div, enabled := true, tileId := 1, sprId := 2,
    data0 := 0xB0, data1 := 0xC0, sprData0 := 0xF0, sprData1 := 0x0F, old := 2 }).setQ q |>.setMem (tiles 0)

/-- The channel set up as for WV1, with NR34 and the phase. -/
def playing (nr34 : Byte) (sub : Nat) (idx : BitVec 5) (cur : Sample) : State :=
  base.setW { base.w with nr30 := 0x80, nr32 := 0x20, nr33 := 0xE0, nr34 := nr34, enabled := true, sub := sub,
                          idx := idx, cur := cur }

/-- The controller in a mode, at a step of a line. -/
def inMode (mode : Mode) (lineTick : Nat) (ly x : Byte) (s : State) : State :=
  s.setPpu { s.ppu with mode := mode, lineTick := lineTick, ly := ly, x := x }

/-! ### Well-formed instructions -/

/-- R66, R99: `oam` above 39 is ill-formed. -/
theorem test_wellFormed_refuses_oam_40 : (Instr.fFetchSprite 40 8 0 0).wellFormed = false := by decide

theorem test_wellFormed_accepts_oam_39 : (Instr.fFetchSprite 39 8 0 0).wellFormed = true := by decide

/-! ### Words written out from 30_encoding.md, one for each constructor -/

/-- R65, R66: the host records with no operand. -/
theorem test_decode_plain :
    decode [0b00000000] = .record .reset [] ∧ decode [0b00000001] = .record .ppuTick []
      ∧ decode [0b00000010] = .record .waveTick [] ∧ decode [0b00010010] = .record .fTick []
      ∧ decode [0b00100000] = .record .qClear [] ∧ decode [0b00100010] = .record .qPop []
      ∧ decode [0b00100100] = .record .qSize [] := by decide

/-- R66: 16-bit operands most significant byte first. -/
theorem test_decode_bus :
    decode [0b00000011, 0b11111111, 0b01000000, 0b10010001] = .record (.regWrite 0xFF40 0x91) []
      ∧ decode [0b00000100, 0b11111111, 0b01000100] = .record (.regRead 0xFF44) []
      ∧ decode [0b00000101, 0b10011000, 0b00000000, 0b00000001, 0x20] = .record (.memWrite 0x9800 1) [0x20] := by
  decide

/-- R66: tileOffset in bits 7:3 of byte 5, tileLine below it, signedID in bit 0 of byte 6. -/
theorem test_decode_fStart :
    decode [0b00010000, 0b10011100, 0b00000001, 0b10010000, 0b00000010, 0b10001_101, 0b00000001]
      = .record (.fStart 0x9C01 0x9002 17 5 true) [] := by decide

/-- R66: oam in bits 5:0 of byte 1, spriteOffset above spriteLine in byte 3. -/
theorem test_decode_fFetchSprite :
    decode [0b00010001, 0b00100111, 0b00011100, 0b00_110_011] = .record (.fFetchSprite 39 28 6 3) [] := by decide

/-- R66 and vector PQ1: lane 0 in the two highest bits. -/
theorem test_decode_qPush8 :
    decode [0b00100001, 0b11_10_01_01, 0b00_00_00_00] = .record (.qPush8 ⟨3, 2, 1, 1, 0, 0, 0, 0⟩) [] := by decide

/-- R66 and vector PQ7: offset 2, behind, pixel 1. -/
theorem test_decode_qMix : decode [0b00100011, 0b0010_0_1_01] = .record (.qMix 2 1 true) [] := by decide

/-- R68: the nine codes; R85: the first and the last reserved one. -/
theorem test_decode_fst4 :
    ([0b0000, 0b0001, 0b0010, 0b0011, 0b0100, 0b0101, 0b0110, 0b0111, 0b1000, 0b1001, 0b1111] : List (BitVec 4)).map
        (fun c => decodeCode Config.default (.fst4 c))
      = [some .readTileId, some .readTileData0, some .readTileData1, some .pushToFifo, some .readSpriteId,
         some .readSpriteFlags, some .readSpriteData0, some .readSpriteData1, some .mixInFifo, none, none] := by decide

/-- R69: the four codes. -/
theorem test_decode_mode2 :
    ([0b00, 0b01, 0b10, 0b11] : List (BitVec 2)).map (fun c => decodeCode Config.default (.mode2 c))
      = [some .lineBlank, some .frameBlank, some .search, some .transfer] := by decide

/-- R82: the default addresses; R87: addresses beside them. -/
theorem test_decode_reg16 :
    ([0xFF40, 0xFF44, 0xFF45, 0xFF1A, 0xFF1B, 0xFF1C, 0xFF1D, 0xFF1E, 0xFF30, 0xFF3F, 0xFF2F, 0xFF41] : List Addr).map
        (fun a => decodeCode Config.default (.reg16 a (.write 7)))
      = [some (.lcdc (.write 7)), some (.ly (.write 7)), some (.lyc (.write 7)), some (.nr30 (.write 7)),
         some (.nr31 (.write 7)), some (.nr32 (.write 7)), some (.nr33 (.write 7)), some (.nr34 (.write 7)),
         some (.waveTable 0 (.write 7)), some (.waveTable 15 (.write 7)), none, none] := by decide

/-- R84: what the decoder refuses, and a record that is cut off. -/
theorem test_decode_refuses :
    decode [0x06, 0x20] = .undefined .reservedOpcode [0x20]
      ∧ decode [0x10, 0x98, 0, 0x80, 0, 0, 2] = .undefined .mustBeZero []
      ∧ decode [0x11, 40, 8, 0] = .undefined .oamRange []
      ∧ decode [0x11, 0, 8, 0x40] = .undefined .mustBeZero []
      ∧ decode [0x23, 0x08] = .undefined .mustBeZero []
      ∧ decode [0x03, 0xFF, 0x40] = .truncated ∧ decode [] = .empty := by decide

/-- The encoder writes the bytes of program P2's records (95_test_vectors.md section 8). -/
theorem test_encode_records :
    encodeBytes (.fStart 0x9800 0x8000 0 0 false) = some [0x10, 0x98, 0x00, 0x80, 0x00, 0x00, 0x00]
      ∧ encodeBytes (.fFetchSprite 0 8 0 0) = some [0x11, 0x00, 0x08, 0x00]
      ∧ encodeBytes (.qMix 15 2 false) = some [0x23, 0xF2]
      ∧ encodeBytes .readTileId = none := by decide

/-- R88, R89: lines of a script. -/
theorem test_assemble :
    assembleLine Config.default "REG_WRITE 0xFF40, 0x91  ; on".toList = some [.regWrite 0xFF40 0x91]
      ∧ assembleLine Config.default "Q_PUSH8 [3,2,1,1,0,0,0,0]".toList = some [.qPush8 ⟨3, 2, 1, 1, 0, 0, 0, 0⟩]
      ∧ assembleLine Config.default "MEM_FILL 0xFFFF, 2, 0b11".toList = some [.memWrite 0xFFFF 3, .memWrite 0 3]
      ∧ assembleLine Config.default "PULSES 2".toList = some [.ppuTick, .waveTick, .ppuTick, .waveTick]
      ∧ assembleLine Config.default "F_FETCH_SPRITE 40, 8, 0, 0".toList = none := by decide

/-- The table's words, numbered as the table numbers them. -/
theorem test_table_words :
    decodeTableWord 8 0x12 = some .fTick ∧ decodeTableWord 8 0x08 = some .mixInFifo
      ∧ decodeTableWord 4 0b0011 = some .pushToFifo ∧ decodeTableWord 2 0b10 = some .search
      ∧ decodeTableWord 16 0xFF45 = some (.lyc .read) ∧ decodeTableWord 8 0x06 = some .readSpriteData0
      ∧ decodeTableWord 8 0x09 = none := by decide

/-- A step after `withFetchWord` runs the row's instruction: an OP8 record, a fetch step, a mode step, a bus read. -/
theorem test_table_words_run :
    ((nextOf (step (base.withFetchWord 8 0x24))).map (fun t => t.result) = some (.size 0))
      ∧ ((nextOf (step (base.withFetchWord 4 0b0000))).map (fun t => t.f.state) = some 0b0001)
      ∧ ((nextOf (step (base.withFetchWord 2 0b10))).map (fun t => t.ppu.lineTick) = some 1)
      ∧ ((nextOf (step (base.withFetchWord 16 0xFF44))).map (fun t => t.trace) = some [.regRead 0xFF44 0]) := by
  decide

/-! ### The Pixel Queue (95_test_vectors.md section 2) -/

/-- PQ2: a push at exactly 8. -/
theorem test_qPush8_at_eight :
    (after (.qPush8 ⟨3, 2, 1, 1, 0, 0, 0, 0⟩) (withQ [1, 1, 1, 1, 1, 1, 1, 1])).map (fun t => t.q)
      = some [1, 1, 1, 1, 1, 1, 1, 1, 3, 2, 1, 1, 0, 0, 0, 0] := by decide

/-- PQ3: nine elements. -/
theorem test_qPush8_overflow :
    (after (.qPush8 Lanes.zero) (withQ [1, 1, 1, 1, 1, 1, 1, 1, 2])).map (fun t => (t.q, t.fault))
      = some ([1, 1, 1, 1, 1, 1, 1, 1, 2], some .queueOverflow) := by decide

/-- PQ4. -/
theorem test_qPop : (after .qPop (withQ [3, 2])).map (fun t => (t.q, t.result)) = some ([2], .colour 3) := by decide

/-- PQ5: Empty is no fault and no colour. -/
theorem test_qPop_empty :
    (after .qPop (withQ [])).map (fun t => (t.q, t.result, t.fault)) = some ([], .empty, none) := by decide

/-- PQ7 and PQ8: a sprite behind the background. -/
theorem test_qMix_behind :
    (after (.qMix 2 1 true) (withQ [0, 2, 2, 3, 0, 0, 0, 0])).map (fun t => t.q) = some [0, 2, 2, 3, 0, 0, 0, 0]
      ∧ (after (.qMix 0 1 true) (withQ [0, 2, 2, 3, 0, 0, 0, 0])).map (fun t => t.q) = some [1, 2, 2, 3, 0, 0, 0, 0] := by
  decide

/-- PQ9 and PQ11: a transparent pixel; an offset past the tail. -/
theorem test_qMix_transparent_and_range :
    (after (.qMix 3 0 false) (withQ [0, 2, 2, 3, 0, 0, 0, 0])).map (fun t => t.q) = some [0, 2, 2, 3, 0, 0, 0, 0]
      ∧ (after (.qMix 8 1 false) (withQ [0, 2, 2, 3, 0, 0, 0, 0])).map (fun t => t.fault) = some (some .mixRange) := by
  decide

/-- PQ14. -/
theorem test_qClear_qSize :
    (after .qClear (withQ [1, 2])).map (fun t => t.q) = some []
      ∧ (after .qSize (withQ [1, 2])).map (fun t => t.result) = some (.size 2) := by decide

/-! ### Row decode and addresses (section 3) -/

/-- RD1, RD6. -/
theorem test_decodeRow :
    (decodeRow 0xB0 0xC0 false).toList = [3, 2, 1, 1, 0, 0, 0, 0]
      ∧ (decodeRow 0x81 0x01 true).toList = [3, 0, 0, 0, 0, 0, 0, 1] := by decide

/-- AD2, AD4, AD5: the unsigned and the signed base. -/
theorem test_tileRowAddr :
    tileRowAddr { Fetcher.reset with dataAddr := 0x8000, tileId := 0xFF, tileLine := 7 } = 0x8FFE
      ∧ tileRowAddr { Fetcher.reset with dataAddr := 0x9000, tileId := 0x80, signedId := true } = 0x8800
      ∧ tileRowAddr { Fetcher.reset with dataAddr := 0x9000, tileId := 0xFF, tileLine := 2, signedId := true } = 0x8FF4 := by
  decide

/-- AD7: vertical flip; AD11: OAM entry 39. -/
theorem test_sprite_addresses :
    spriteRowAddr Config.default { Fetcher.reset with sprId := 2, sprLine := 1, sprFlags := 0x40 } = 0x802C
      ∧ oamAddr Config.default 39 3 = 0xFE9F := by decide

/-- AD10: map 1, line 143, tile offset 31. -/
theorem test_map_addresses :
    mapEntryAddr { Fetcher.reset with
      mapAddr := mapRowAddr Config.default { Ppu.reset with lcdc := 0x08, ly := 143 }, tileOffset := 31 } = 0x9E3F := by
  decide

/-- Section 3's frequency fields. -/
theorem test_rawFrequency :
    rawFrequency { base.w with nr33 := 0xE0, nr34 := 0x87 } = 2016
      ∧ rawFrequency { base.w with nr33 := 0xFF, nr34 := 0xFF } = 2047 := by decide

/-! ### The fetcher (section 4) -/

/-- FT1. -/
theorem test_fStart :
    (after (.fStart 0x9800 0x8000 0 0 false) (fetching 8 1 [1])).map
        (fun t => (t.f.state, t.f.div, t.f.enabled, t.q, t.f.mapAddr)) = some (0, 0, true, [], 0x9800) := by decide

/-- FT2 and FT3. -/
theorem test_fTick :
    (after .fTick (fetching 0 0 [])).map (fun t => (t.f.state, t.f.div)) = some (0, 1)
      ∧ (after .fTick (fetching 0 1 [])).map (fun t => (t.f.state, t.f.div, t.f.tileId)) = some (1, 0, 1) := by decide

/-- FT14 and R85. -/
theorem test_fTick_disabled_and_reserved :
    (after .fTick base).map (fun t => t.f) = some Fetcher.reset
      ∧ (after .fTick (fetching 9 1 [])).map (fun t => (t.fault, t.f.div)) = some (some .badState, 1) := by decide

/-- FT7. -/
theorem test_fFetchSprite :
    (after (.fFetchSprite 0 8 0 0) (fetching 2 0 [])).map (fun t => (t.f.state, t.f.old, t.f.sprX, t.fault))
      = some (4, 2, 8, none) := by decide

/-- FT10 and FT11: the two faults of F_FETCH_SPRITE. -/
theorem test_fFetchSprite_faults :
    (after (.fFetchSprite 0 8 0 0) (fetching 4 0 [])).map (fun t => t.fault) = some (some .nestedSprite)
      ∧ (after (.fFetchSprite 0 8 0 0) base).map (fun t => t.fault) = some (some .spriteWhileDisabled) := by decide

theorem test_readTileId :
    (after .readTileId (fetching 0 0 [])).map (fun t => (t.f.tileId, t.f.state)) = some (1, 1) := by decide

theorem test_readTileData0 :
    (after .readTileData0 ((fetching 1 0 []).setMem (tiles 0))).map (fun t => (t.f.data0, t.f.state)) = some (0xB0, 2) := by
  decide

theorem test_readTileData1 :
    (after .readTileData1 (fetching 2 0 [])).map (fun t => (t.f.data1, t.f.state)) = some (0xC0, 3) := by decide

/-- FT4: the push of tile B. -/
theorem test_pushToFifo :
    (after .pushToFifo (fetching 3 0 [])).map (fun t => (t.q, t.f.tileOffset, t.f.state))
      = some ([3, 2, 1, 1, 0, 0, 0, 0], 1, 0) := by decide

/-- FT18: background off; FT5: the stall at nine. -/
theorem test_pushToFifo_off_and_stall :
    (after .pushToFifo (withLcdc 0x90 (fetching 3 0 []))).map (fun t => t.q) = some [0, 0, 0, 0, 0, 0, 0, 0]
      ∧ (after .pushToFifo (fetching 3 0 [1, 1, 1, 1, 1, 1, 1, 1, 1])).map (fun t => (t.q.length, t.f.state, t.f.tileOffset))
        = some (9, 3, 0) := by decide

theorem test_readSpriteId :
    (after .readSpriteId (fetching 4 0 [])).map (fun t => (t.f.sprId, t.f.state)) = some (2, 5) := by decide

theorem test_readSpriteFlags :
    (after .readSpriteFlags ((fetching 5 0 []).setMem (tiles 0x80))).map (fun t => (t.f.sprFlags, t.f.state))
      = some (0x80, 6) := by decide

theorem test_readSpriteData0 :
    (after .readSpriteData0 (fetching 6 0 [])).map (fun t => (t.f.sprData0, t.f.state)) = some (0xF0, 7) := by decide

theorem test_readSpriteData1 :
    (after .readSpriteData1 (fetching 7 0 [])).map (fun t => (t.f.sprData1, t.f.state)) = some (0x0F, 8) := by decide

/-- FT8: the mix of tile S over tile B, and the return to the saved state. -/
theorem test_mixInFifo :
    (after .mixInFifo (fetching 8 0 [3, 2, 1, 1, 0, 0, 0, 0])).map (fun t => (t.q, t.f.state))
      = some ([1, 1, 1, 1, 2, 2, 2, 2], 2) := by decide

/-- FT16: behind; FT12: the stall below eight. -/
theorem test_mixInFifo_behind_and_stall :
    (after .mixInFifo ((fetching 8 0 [3, 2, 1, 1, 0, 0, 0, 0]).setF
        { (fetching 8 0 []).f with sprFlags := 0x80 })).map (fun t => t.q) = some [3, 2, 1, 1, 2, 2, 2, 2]
      ∧ (after .mixInFifo (fetching 8 0 [1, 1, 1, 1, 1, 1, 1])).map (fun t => (t.q.length, t.f.state)) = some (7, 8) := by
  decide

/-! ### The controller (section 5) -/

/-- HV11 and R112: a tick that is no controller step, under `PPU_CLOCK_FACTOR` 2. -/
theorem test_ppuTick :
    (after .ppuTick base).map (fun t => (t.ppu.mode, t.ppu.lineTick)) = some (.search, 1)
      ∧ (after .ppuTick ({ base with cfg := { Config.default with ppuClockFactor := 2 } })).map
          (fun t => (t.ppu.div, t.ppu.lineTick)) = some (1, 0) := by decide

/-- Section 5's selection on line 0: Y 16 is line 0, Y 9 line 7, Y 8 and Y 17 are not selected. -/
theorem test_search_selects :
    ([16, 9, 8, 17] : List Byte).map (fun y =>
        (after .search ((inMode .search 1 0 0 base).setMem (zeroMemory.write 0xFE00 y))).map
          (fun t => t.ppu.sprites.map (fun e => e.line)))
      = [some [0], some [7], some [], some []] := by decide

/-- HV10: the 40th step. -/
theorem test_search_enters_transfer :
    (after .search (inMode .search 40 0 9 base)).map
        (fun t => (t.ppu.mode, t.ppu.x, t.f.mapAddr, t.f.dataAddr, t.f.signedId, t.f.enabled))
      = some (.transfer, 0, 0x9800, 0x9000, true, true) := by decide

/-- R120, R121: the 160th pixel. -/
theorem test_transfer_last_pixel :
    (after .transfer (inMode .transfer 215 0 159 (fetching 0 0 [3, 2, 1, 1, 0, 0, 0, 0, 1]))).map
        (fun t => (t.ppu.mode, t.ppu.x, t.f.enabled, t.trace, t.q.length))
      = some (.lineBlank, 160, false, [.writePixel 3, .endOfLine], 8) := by decide

/-- SC2, SC7: the trigger at `max(X − 8, 0)`, with nothing popped. -/
theorem test_transfer_trigger :
    (after .transfer ((withLcdc 0x93 (inMode .transfer 48 0 0 (fetching 0 0 [3, 2, 1, 1, 0, 0, 0, 0, 1]))).setPpu
        { Ppu.reset with mode := .transfer, lcdc := 0x93, sprites := [⟨5, 16, 3, 0, false⟩] })).map
        (fun t => (t.f.state, t.f.sprOam, t.f.sprOffset, t.ppu.sprites.map (fun e => e.fetched), t.q.length))
      = some (4, 5, 5, [true], 9) := by decide

/-- SC12, SC10: the end of line 143, and of a line above it. -/
theorem test_lineBlank :
    (after .lineBlank (inMode .lineBlank 456 143 160 base)).map (fun t => (t.ppu.ly, t.ppu.mode, t.ppu.lineTick, t.trace))
        = some (144, .frameBlank, 0, [.endOfFrame])
      ∧ (after .lineBlank (inMode .lineBlank 456 0 160 base)).map (fun t => (t.ppu.ly, t.ppu.mode, t.trace))
        = some (1, .search, []) := by decide

/-- SC12b: line 153 wraps; one step earlier nothing happens. -/
theorem test_frameBlank :
    (after .frameBlank (inMode .frameBlank 456 153 160 base)).map (fun t => (t.ppu.ly, t.ppu.mode, t.ppu.lineTick))
        = some (0, .search, 0)
      ∧ (after .frameBlank (inMode .frameBlank 455 153 160 base)).map (fun t => (t.ppu.ly, t.ppu.lineTick))
        = some (153, 455) := by decide

/-! ### The wave channel (section 6) -/

/-- WV1's first tick, with the restart, and its tenth. -/
theorem test_waveTick :
    (after .waveTick (playing 0x87 5 20 9)).map (fun t => (t.result, t.w.idx, t.w.sub, t.w.nr34, t.trace))
        = some (.sample 1, 1, 0, 0x07, [.sample 1])
      ∧ (after .waveTick (playing 0x07 0 9 9)).map (fun t => (t.result, t.w.idx)) = some (.sample 10, 10) := by decide

/-- WV8: a restart while gated; WV4: half volume. -/
theorem test_waveTick_gate_and_volume :
    (after .waveTick ((playing 0x87 5 20 9).setW { (playing 0x87 5 20 9).w with nr30 := 0 })).map
        (fun t => (t.result, t.w.idx, t.w.sub, t.w.nr34, t.w.enabled)) = some (.sample 0, 0, 0, 0x07, true)
      ∧ (after .waveTick ((playing 0x07 0 6 3).setW { (playing 0x07 0 6 3).w with nr32 := 0x40 })).map
        (fun t => t.result) = some (.sample 3) := by decide

/-! ### The host's accesses, RESET and faults (section 7) -/

/-- HV3 and HV2. -/
theorem test_regWrite :
    (after (.regWrite 0xFF45 0x90) base).map (fun t => t.ppu.lyc) = some 0x90
      ∧ (after (.regWrite 0xFF44 0x55) base).map (fun t => t.ppu) = some Ppu.reset := by decide

/-- HV1. -/
theorem test_regRead :
    (after (.regRead 0xFF40) (withLcdc 0x91 base)).map (fun t => (t.trace, t.result))
      = some ([.regRead 0xFF40 0x91], .byte 0x91) := by decide

/-- HV9; a byte equal to what an unlisted address reads as leaves no cell. -/
theorem test_memWrite :
    (after (.memWrite 0x9800 1) base).map (fun t => (t.mem.cells, t.trace)) = some ([(0x9800, 1)], [])
      ∧ (after (.memWrite 0x9800 0) (base.setMem (zeroMemory.write 0x9800 1))).map (fun t => t.mem) = some zeroMemory := by
  decide

/-- R13, R164: from power-on an unwritten byte is a draw, and a byte written is itself, whatever the draws are. -/
theorem test_launch_draws :
    State.reset.memRead 0x9801 = Config.launchDraw 0x9801
      ∧ (State.reset.memWrite 0x9800 1).memRead 0x9801 = Config.launchDraw 0x9801
      ∧ (State.reset.memWrite 0x9800 1).memRead 0x9800 = 1 :=
  ⟨rfl, read_write_other (by decide), read_write_same reset_mem_wf⟩

/-- HV13, HV16: RESET clears a fault and leaves `M`. -/
theorem test_reset :
    (after .reset ((fetching 3 1 [1]).setFault (some .badState))).map
        (fun t => (t.fault, t.f.state, t.f.enabled, t.q)) = some (none, 0, false, [])
      ∧ (after .reset (base.setMem (tiles 0))).map (fun t => t.mem) = some (tiles 0) := by decide

/-- HV12: an operation refused while faulted. -/
theorem test_refused_while_faulted :
    (after .ppuTick (base.setFault (some .nestedSprite))).map (fun t => t.ppu.lineTick) = some 0 := by decide

theorem test_lcdc : (after (.lcdc (.write 0x91)) base).map (fun t => t.ppu.lcdc) = some 0x91 := by decide

/-- R140: writes are ignored; a read gives LY. -/
theorem test_ly :
    (after (.ly (.write 0x55)) (inMode .search 0 7 0 base)).map (fun t => t.ppu.ly) = some 7
      ∧ (after (.ly .read) (inMode .search 0 7 0 base)).map (fun t => t.trace) = some [.regRead 0xFF44 7] := by decide

theorem test_lyc : (after (.lyc .read) base).map (fun t => t.result) = some (.byte 0) := by decide

theorem test_nr30 : (after (.nr30 (.write 0x80)) base).map (fun t => t.w.nr30) = some 0x80 := by decide

theorem test_nr31 : (after (.nr31 (.write 0xAB)) base).map (fun t => t.w.nr31) = some 0xAB := by decide

theorem test_nr32 : (after (.nr32 (.write 0x60)) base).map (fun t => t.w.nr32) = some 0x60 := by decide

theorem test_nr33 : (after (.nr33 .read) (playing 0 0 0 0)).map (fun t => t.result) = some (.byte 0xE0) := by decide

/-- HV4: the restart stays pending. -/
theorem test_nr34 :
    (after (.nr34 (.write 0x07)) (playing 0x80 0 0 0)).map (fun t => t.w.nr34) = some 0x87 := by decide

/-- HV8, at both ends of the table. -/
theorem test_waveTable :
    (after (.waveTable 0 (.write 0x5A)) base).map (fun t => (t.w.table[0], t.w.table[1])) = some (0x5A, 0x23)
      ∧ (after (.waveTable 15 .read) base).map (fun t => t.trace) = some [.regRead 0xFF3F 0x10] := by decide

/-! ### Witnesses: for each statement with hypotheses, states and operands that meet them -/

/-- A configuration outside R8. -/
def badConfig : Config := { Config.default with masterRate := 0 }

/-- A state of a line in Transfer that meets the invariant. -/
def transferring : State := inMode .transfer 60 0 5 (fetching 0 0 [3, 2, 1, 1, 0, 0, 0, 0, 1])

theorem witness_StepRunsDecodedInstruction :
    (base.load [0x20, 0x01]).cfg.admitted = true ∧ decode (base.load [0x20, 0x01]).script = .record .qClear [0x01] := by
  decide

/-- Both ends of the reserved opcodes; each must-be-zero field at its least value; `oam` 40. -/
theorem witness_UndefinedRecordsFault :
    (base.load [0x06]).script = 0x06 :: []
      ∧ (base.load [0x10, 0, 0, 0, 0, 0, 2]).script = 0x10 :: 0 :: 0 :: 0 :: 0 :: 0 :: 2 :: []
      ∧ (base.load [0x11, 40, 0, 0]).script = 0x11 :: 40 :: 0 :: 0 :: [] ∧ (base.load [0x23, 8]).script = 0x23 :: 8 :: []
      ∧ (base.cfg.admitted = true ∧ base.fault = none)
      ∧ (∀ b ∈ ([0x06, 0x0F, 0x13, 0x1F, 0x25, 0xFF] : List Byte),
          b.toNat ∉ [0x00, 0x01, 0x02, 0x03, 0x04, 0x05, 0x10, 0x11, 0x12, 0x20, 0x21, 0x22, 0x23, 0x24])
      ∧ 2 ≤ (2 : Byte).toNat ∧ 39 < (40 : Byte).toNat ∧ 64 ≤ (0x40 : Byte).toNat
      ∧ (0x08 : Byte).getLsbD 3 = true := by decide

theorem witness_StepStopsWithoutOperation :
    badConfig.admitted = false ∧ base.cfg.admitted = true ∧ base.script = []
      ∧ decode (base.load [0x10, 0x98]).script = .truncated := by decide

theorem witness_EncodeThenDecodeRecord :
    (Instr.fFetchSprite 39 255 7 7).wellFormed = true
      ∧ encodeBytes (.fFetchSprite 39 255 7 7) = some [0x11, 39, 255, 0x3F] := by decide

theorem witness_DecodeThenEncodeRecord : decode [0x23, 0xF7, 0x24] = .record (.qMix 15 3 true) [0x24] := by decide

theorem witness_EncodeThenDecodeRow :
    Config.default.admitted = true ∧ (Instr.waveTable 15 (.write 255)).wellFormed = true := by decide

theorem witness_RegisterDispatchTable : Config.default.admitted = true := by decide

/-- The first and the last reserved code. -/
theorem witness_ReservedFetchStateFaults :
    ∀ c ∈ ([9, 15] : List (BitVec 4)),
      (fetching c 1 []).fault = none ∧ (fetching c 1 []).f.enabled = true ∧ 1 ≤ (fetching c 1 []).f.div
        ∧ 9 ≤ (fetching c 1 []).f.state.toNat := by decide

theorem witness_FaultRefusesAllButReset :
    (base.setFault (some .nestedSprite)).fault = some .nestedSprite ∧ Instr.ppuTick ≠ .reset
      ∧ base.cfg.admitted = true ∧ decode ((base.setFault (some .nestedSprite)).load [0x06]).script
          = .undefined .reservedOpcode [] := by decide

theorem witness_FaultHasNoOtherEffect :
    base.fault = none ∧ (after (.fFetchSprite 0 8 0 0) base).map (fun t => t.fault) = some (some .spriteWhileDisabled) := by
  decide

theorem witness_PpuTickRaisesNoFault : transferring.Inv ∧ transferring.fault = none := by decide

theorem witness_FetcherTickFaultsOnlyOnReservedState : (fetching 9 1 []).fault = none := by decide

theorem witness_HostAccessesRaiseNoFault :
    base.fault = none ∧ Instr.regRead 0xFF40 ∈ [Instr.waveTick, .regWrite 0xFF40 0, .regRead 0xFF40, .memWrite 0xFF40 0,
      .reset] := by decide

theorem witness_StepKeepsInvariant :
    (transferring.load [0x01]).Inv ∧ (nextOf (step (transferring.load [0x01]))).isSome = true := by decide

theorem witness_TraceOnlyGrows : (nextOf (step (base.load [0x02]))).isSome = true := by decide

theorem witness_ConfigurationIsFixed : (nextOf (step (base.load [0x00]))).isSome = true := by decide

theorem witness_OnlyMemWriteChangesMemory :
    (∀ (a : Addr) (d : Byte), Instr.reset ≠ .memWrite a d) ∧ (after .reset (base.setMem (tiles 0))).isSome = true :=
  ⟨(fun _ _ h => nomatch h), by decide⟩

theorem witness_MemWriteStoresOneByte : (base.setMem (tiles 0)).fault = none ∧ Memory.wf (tiles 0) = true := by decide

theorem witness_QueueClearEmpties : (withQ [1]).fault = none := by decide

/-- The two clauses where they meet: 8 queued and 9 queued. -/
theorem witness_QueuePushAppendsBatch :
    (withQ [1, 1, 1, 1, 1, 1, 1, 1]).fault = none ∧ (withQ [1, 1, 1, 1, 1, 1, 1, 1]).q.length ≤ 8
      ∧ 8 < (withQ [1, 1, 1, 1, 1, 1, 1, 1, 1]).q.length := by decide

theorem witness_QueuePopReturnsHead :
    (withQ [3, 2]).fault = none ∧ (withQ [3, 2]).q = 3 :: [2] ∧ (withQ []).q = [] := by decide

/-- The last offset of a queue of 8, the offset past it, and a queue of 7. -/
theorem witness_QueueMixCombinesOnePixel :
    (0xF7 : Byte).getLsbD 3 = false ∧ (withQ [0, 1, 2, 3, 0, 0, 0, 2]).fault = none
      ∧ (withQ [0, 1, 2, 3, 0, 0, 0, 2]).q = [0, 1, 2, 3, 0, 0, 0] ++ 2 :: []
      ∧ ([0, 1, 2, 3, 0, 0, 0] : List Colour).length = (7 : BitVec 4).toNat ∧ 8 ≤ (withQ [0, 1, 2, 3, 0, 0, 0, 2]).q.length
      ∧ (1 : Colour) ≠ 0 ∧ (2 : Colour) ≠ 0
      ∧ (withQ [0, 1, 2, 3, 0, 0, 0, 2]).q.length ≤ (8 : BitVec 4).toNat ∧ (withQ [0, 1, 2, 3, 0, 0, 0]).q.length < 8 := by
  decide

theorem witness_QueueSizeCounts : (withQ [1]).fault = none := by decide

theorem witness_StartBeginsBackgroundFetch : (fetching 8 1 [1]).fault = none ∧ (1 : Byte).toNat < 2 := by decide

/-- A disabled fetcher in a sprite state too; the ends of the sprite path; the last background state. -/
theorem witness_FetchSpritePreempts :
    (39 : Byte).toNat ≤ 39 ∧ (63 : Byte).toNat < 64 ∧ base.fault = none ∧ base.f.enabled = false
      ∧ ((fetching 4 0 []).f.enabled = true ∧ 4 ≤ (fetching 4 0 []).f.state.toNat)
      ∧ ((fetching 8 0 []).f.enabled = true ∧ (fetching 8 0 []).f.state.toNat ≤ 8)
      ∧ ((fetching 3 0 []).fault = none ∧ (fetching 3 0 []).f.enabled = true ∧ (fetching 3 0 []).f.state.toNat ≤ 3) := by
  decide

theorem witness_FetcherTickDivides :
    base.fault = none ∧ base.f.enabled = false
      ∧ ((fetching 0 0 []).f.enabled = true ∧ (fetching 0 0 []).f.div = 0)
      ∧ ((fetching 8 1 []).fault = none ∧ (fetching 8 1 []).f.enabled = true ∧ (fetching 8 1 []).f.div = 1
          ∧ (fetching 8 1 []).f.state = FetchState.mixInFifo.code)
      ∧ 9 ≤ (fetching 9 1 []).f.state.toNat := by decide

theorem witness_ReadTileIdReadsMap : (fetching 0 0 []).fault = none := by decide

/-- Both readings of tile index 0x80. -/
theorem witness_ReadTileDataReadsPlanes :
    (fetching 1 0 []).fault = none
      ∧ (-128 : Int) = (if true = true then (0x80 : Byte).toInt else ((0x80 : Byte).toNat : Int))
      ∧ (128 : Int) = (if false = true then (0x80 : Byte).toInt else ((0x80 : Byte).toNat : Int)) := by decide

theorem witness_PushToFifoPushesOrStalls :
    (fetching 3 0 [1, 1, 1, 1, 1, 1, 1, 1, 1]).fault = none ∧ 8 < (fetching 3 0 [1, 1, 1, 1, 1, 1, 1, 1, 1]).q.length
      ∧ (fetching 3 0 [1, 1, 1, 1, 1, 1, 1, 1]).q.length ≤ 8
      ∧ (fetching 3 0 []).ppu.lcdc.getLsbD 0 = true ∧ (withLcdc 0x90 (fetching 3 0 [])).ppu.lcdc.getLsbD 0 = false := by
  decide

theorem witness_ReadSpriteEntryBytes : (fetching 4 0 []).fault = none := by decide

/-- Line 0 unflipped and flipped: rows 0 and 7. -/
theorem witness_ReadSpriteDataReadsPlanes :
    (fetching 6 0 []).fault = none
      ∧ 0 = (if (0x00 : Byte).getLsbD 6 = true then 7 - (0 : BitVec 3).toNat else (0 : BitVec 3).toNat)
      ∧ 7 = (if (0x40 : Byte).getLsbD 6 = true then 7 - (0 : BitVec 3).toNat else (0 : BitVec 3).toNat) := by decide

theorem witness_MixInFifoBlendsRow :
    (fetching 8 0 [1, 1, 1, 1, 1, 1, 1]).fault = none ∧ (fetching 8 0 [1, 1, 1, 1, 1, 1, 1]).q.length < 8
      ∧ 8 ≤ (fetching 8 0 [3, 2, 1, 1, 0, 0, 0, 0]).q.length
      ∧ ([1, 1, 1, 1, 2, 2, 2, 2] : List Colour)
          = (decodeRow (fetching 8 0 []).f.sprData0 (fetching 8 0 []).f.sprData1
              ((fetching 8 0 []).f.sprFlags.getLsbD 5)).toList := by decide

theorem witness_RowDecodeCombinesPlanes : 0 < 8 ∧ 7 < 8 := by decide

/-- A queue of exactly 8 at the push, and of 9 at the stall. -/
theorem witness_FetchCadence :
    ((fetching 0 0 [1, 1, 1, 1, 1, 1, 1, 1]).fault = none ∧ (fetching 0 0 [1, 1, 1, 1, 1, 1, 1, 1]).f.enabled = true
        ∧ (fetching 0 0 [1, 1, 1, 1, 1, 1, 1, 1]).f.div = 0 ∧ (fetching 0 0 [1, 1, 1, 1, 1, 1, 1, 1]).f.state = 0b0000
        ∧ (fetching 0 0 [1, 1, 1, 1, 1, 1, 1, 1]).q.length ≤ 8)
      ∧ ((fetching 3 0 [1, 1, 1, 1, 1, 1, 1, 1, 1]).f.state = 0b0011
        ∧ 8 < (fetching 3 0 [1, 1, 1, 1, 1, 1, 1, 1, 1]).q.length) := by decide

theorem witness_PreemptAndResume :
    (fetching 3 0 [1, 1, 1, 1, 1, 1, 1, 1]).fault = none ∧ (fetching 3 0 [1, 1, 1, 1, 1, 1, 1, 1]).f.enabled = true
      ∧ (fetching 3 0 [1, 1, 1, 1, 1, 1, 1, 1]).f.div = 0 ∧ (fetching 3 0 [1, 1, 1, 1, 1, 1, 1, 1]).f.state.toNat ≤ 3
      ∧ 8 ≤ (fetching 3 0 [1, 1, 1, 1, 1, 1, 1, 1]).q.length := by decide

theorem witness_FetcherFollowsTransitionGraph : (after .fTick (fetching 0 1 [])).isSome = true := by decide

/-- The tick before the controller step and the controller step, under `PPU_CLOCK_FACTOR` 2. -/
theorem witness_PpuTickDivides :
    transferring.fault = none ∧ ¬ (0 + 1 < Config.default.ppuClockFactor) ∧ 0 + 1 < 2
      ∧ transferring.cfg.ppuClockFactor ≤ transferring.ppu.div + 1 ∧ transferring.Inv := by decide

/-- Slots 0 and 38, the ends of the range. -/
theorem witness_SearchExaminesOneSlot :
    (inMode .search 1 0 0 base).fault = none ∧ (inMode .search 1 0 0 base).ppu.lineTick = 0 + 1
      ∧ (inMode .search 39 0 0 base).ppu.lineTick = 38 + 1 ∧ 38 < 39
      ∧ (16 : Byte) = Memory.read (zeroMemory.write 0xFE00 16) ((Config.default.oamBase.toNat + 4 * 0) % 65536)
      ∧ (28 : Byte) = Memory.read (zeroMemory.write 0xFE01 28) ((Config.default.oamBase.toNat + 4 * 0 + 1) % 65536) := by
  decide

theorem witness_SearchEntersTransfer :
    (inMode .search 40 0 0 base).fault = none ∧ (inMode .search 40 0 0 base).ppu.lineTick = 40
      ∧ (0 : Byte) = Memory.read (inMode .search 40 0 0 base).mem ((Config.default.oamBase.toNat + 4 * 39) % 65536)
      ∧ (0 : Byte) = Memory.read (inMode .search 40 0 0 base).mem
          ((Config.default.oamBase.toNat + 4 * 39 + 1) % 65536) := by decide

/-- A step that stalls on 8 queued, a pixel in the middle of the line, and the last one. -/
theorem witness_TransferEmitsPixels :
    transferring.fault = none ∧ transferring.f.enabled = true ∧ transferring.f.state.toNat ≤ 8
      ∧ (after .fTick transferring).map (fun t => (decide (t.f.state.toNat ≤ 3), t.q, t.ppu.x, t.ppu.lcdc.getLsbD 1))
          = some (true, 3 :: [2, 1, 1, 0, 0, 0, 0, 1], 5, false)
      ∧ (after .fTick (fetching 0 0 [1, 1, 1, 1, 1, 1, 1, 1])).map (fun t => t.q.length) = some 8
      ∧ (after .fTick (inMode .transfer 215 0 159 (fetching 0 0 [3, 2, 1, 1, 0, 0, 0, 0, 1]))).map (fun t => t.ppu.x)
          = some 159 := by decide

/-- A sprite at the first column, behind one already fetched. -/
theorem witness_TransferTriggersSprite :
    transferring.f.enabled = true
      ∧ (after .fTick (transferring.setPpu { Ppu.reset with
          mode := .transfer, lcdc := 0x93, sprites := [⟨4, 16, 8, 0, true⟩, ⟨5, 16, 1, 0, false⟩] })).map
          (fun t => (t.ppu.lcdc.getLsbD 1, decide (t.f.state.toNat ≤ 3), decide (8 ≤ t.q.length), t.ppu.sprites, t.ppu.x))
          = some (true, true, true, [⟨4, 16, 8, 0, true⟩] ++ ⟨5, 16, 1, 0, false⟩ :: [], 0) := by decide

theorem witness_LineBlankEndsLine :
    (inMode .lineBlank 455 0 160 base).fault = none
      ∧ (inMode .lineBlank 455 0 160 base).ppu.lineTick < (inMode .lineBlank 455 0 160 base).cfg.lineSteps
      ∧ (inMode .lineBlank 456 143 160 base).cfg.lineSteps ≤ (inMode .lineBlank 456 143 160 base).ppu.lineTick
      ∧ (inMode .lineBlank 456 143 160 base).ppu.ly.toNat = 143
      ∧ (inMode .lineBlank 456 142 160 base).ppu.ly.toNat ≠ 143 := by decide

theorem witness_FrameBlankEndsLine :
    (inMode .frameBlank 455 153 160 base).fault = none
      ∧ (inMode .frameBlank 455 153 160 base).ppu.lineTick < (inMode .frameBlank 455 153 160 base).cfg.lineSteps
      ∧ (inMode .frameBlank 456 153 160 base).cfg.lineSteps ≤ (inMode .frameBlank 456 153 160 base).ppu.lineTick
      ∧ (inMode .frameBlank 456 153 160 base).ppu.ly.toNat = 153
      ∧ (inMode .frameBlank 456 152 160 base).ppu.ly.toNat ≠ 153 := by decide

theorem witness_DisplayOffChangesOnlyPixels : (after .ppuTick transferring).isSome = true := by decide

theorem witness_UnusedLcdcBitsHaveNoEffect :
    (0xF5 : Byte) &&& 0x9B = transferring.ppu.lcdc &&& 0x9B ∧ (after .ppuTick transferring).isSome = true := by decide

theorem witness_UnitsAreDisjoint :
    (after .ppuTick transferring).isSome = true ∧ (after .waveTick transferring).isSome = true := by decide

theorem witness_TicksCommute : transferring.Inv ∧ transferring.fault = none := by decide

theorem witness_WaveRestartResetsPhase :
    (playing 0x87 5 20 9).fault = none ∧ (playing 0x87 5 20 9).w.nr34.getLsbD 7 = true
      ∧ ((playing 0x87 5 20 9).setW { (playing 0x87 5 20 9).w with nr30 := 0 }).w.nr30.getLsbD 7 = false := by decide

theorem witness_WaveGateSilences :
    base.fault = none ∧ base.w.nr34.getLsbD 7 = false ∧ base.w.enabled = false
      ∧ ((playing 0x07 0 0 0).setW { (playing 0x07 0 0 0).w with nr30 := 0 }).w.nr30.getLsbD 7 = false := by decide

/-- WV1 (threshold 1, reached), WV5 (raw 1024, threshold 32: sub-ticks 30 and 31), and an audio factor of 3. -/
theorem witness_WaveOutputTickAdvances :
    ((playing 0x07 0 31 0).fault = none ∧ (playing 0x07 0 31 0).w.nr34.getLsbD 7 = false
        ∧ (playing 0x07 0 31 0).w.enabled = true ∧ (playing 0x07 0 31 0).w.nr30.getLsbD 7 = true)
      ∧ 2016 = ((playing 0x07 0 31 0).w.nr34.toNat % 8) * 256 + (playing 0x07 0 31 0).w.nr33.toNat
      ∧ 2048 = (playing 0x07 0 31 0).cfg.masterRate / (2048 - 2016)
      ∧ 1 = (playing 0x07 0 31 0).cfg.masterRate / (2048 * 32) ∧ 0 = ((playing 0x07 0 31 0).w.idx.toNat + 1) % 32
      ∧ 0x01 = ((playing 0x07 0 31 0).w.table.toList.getD (0 / 2) 0).toNat
      ∧ 0 = [4, 0, 1, 2].getD ((playing 0x07 0 31 0).w.nr32.toNat / 32 % 4) 0
      ∧ (playing 0x07 0 31 0).cfg.audioClockFactor ≤ (playing 0x07 0 31 0).w.div + 1
      ∧ 1 ≤ (playing 0x07 0 31 0).w.sub + 1
      ∧ 64 = 65536 / (2048 - 1024) ∧ 32 = 65536 / (64 * 32) ∧ 30 + 1 < 32 ∧ 32 ≤ 31 + 1 ∧ 0 + 1 < 3 := by decide

/-- Raw 1024: threshold 32, from sub-tick 0. -/
theorem witness_WaveSampleLastsItsPeriod :
    ((playing 0x04 0 0 0).setW { (playing 0x04 0 0 0).w with nr33 := 0 }).fault = none
      ∧ (playing 0x04 0 0 0).w.nr34.getLsbD 7 = false ∧ (playing 0x04 0 0 0).w.enabled = true
      ∧ (playing 0x04 0 0 0).w.nr30.getLsbD 7 = true ∧ (playing 0x04 0 0 0).cfg.audioClockFactor = 1
      ∧ (playing 0x04 0 0 0).w.div = 0 ∧ (playing 0x04 0 0 0).w.sub = 0
      ∧ 32 = 65536 / (65536 / (2048 - (((0x04 : Byte).toNat % 8) * 256 + (0x00 : Byte).toNat)) * 32)
      ∧ 0 + 31 < 32 ∧ 1 ≤ 32 := by decide

theorem witness_RegWriteStores : base.fault = none ∧ base.cfg.admitted = true := by decide

/-- Two registers, both ends of the wave table, and NR34. -/
theorem witness_RegReadReturns :
    base.fault = none ∧ base.cfg.admitted = true
      ∧ ((0xFF40 : Addr) = base.cfg.lcdcAddr ∧ (0 : Byte) = base.ppu.lcdc)
      ∧ ((0xFF1D : Addr) = base.cfg.nr33Addr ∧ (0 : Byte) = base.w.nr33)
      ∧ ((0xFF30 : Addr) = base.cfg.waveBase + BitVec.ofNat 16 0 ∧ (0x01 : Byte) = base.w.table[0])
      ∧ ((0xFF3F : Addr) = base.cfg.waveBase + BitVec.ofNat 16 15 ∧ (0x10 : Byte) = base.w.table[15])
      ∧ (0xFF1E : Addr) = base.cfg.nr34Addr := by decide

/-- The address below the wave table. -/
theorem witness_UnmappedAddressesHaveNoEffect :
    base.fault = none
      ∧ (0xFF2F : Addr) ∉ [base.cfg.lcdcAddr, base.cfg.lyAddr, base.cfg.lycAddr, base.cfg.nr30Addr, base.cfg.nr31Addr,
          base.cfg.nr32Addr, base.cfg.nr33Addr, base.cfg.nr34Addr]
      ∧ ∀ k : Fin 16, (0xFF2F : Addr) ≠ base.cfg.waveBase + BitVec.ofNat 16 k.val := by decide

theorem witness_RegisterRowsAreBusAccesses :
    base.fault = none ∧ base.cfg.admitted = true ∧ (0xFF40 : Addr) = base.cfg.lcdcAddr
      ∧ (0xFF3F : Addr) = base.cfg.waveBase + BitVec.ofNat 16 (15 : BitVec 4).toNat := by decide

end Sys2Proof.Tests
end

section
/-! One step, an equation for each thing the decoder can find at the front of the script (R5, R8, R67, R84). -/

namespace Sys2Proof

@[simp] theorem decode_nil : decode [] = .empty := rfl

namespace Machine

variable {s : State}

/-- R8: the configuration is looked at before the script. -/
theorem step_of_not_admitted (hc : s.cfg.admitted = false) : step s = .refused .configNotAdmitted := by
  simp [step, hc]

theorem step_of_record {i : Instr} {rest : List Byte} (hc : s.cfg.admitted = true)
    (hd : decode s.script = .record i rest) : step s = exec i (s.setScript rest) := by
  simp [step, hc, hd]

theorem step_of_undefined {why : Reject} {rest : List Byte} (hc : s.cfg.admitted = true)
    (hd : decode s.script = .undefined why rest) : step s = undefinedOperation (s.setScript rest) := by
  simp [step, hc, hd]

theorem step_of_truncated (hc : s.cfg.admitted = true) (hd : decode s.script = .truncated) :
    step s = .fault .truncatedRecord := by
  simp [step, hc, hd]

theorem step_of_empty (hc : s.cfg.admitted = true) (hd : decode s.script = .empty) :
    step s = .refused .noOperation := by
  simp [step, hc, hd]

/-- Settles O1: the record's equation of `step`; `setScript` is the update that the statement writes out. -/
theorem stepRunsDecodedInstruction : Obligations.StepRunsDecodedInstruction :=
  fun _ _ _ hc hd => step_of_record hc hd

/-- Settles O3: the three equations of `step` that perform nothing; the decoder finds no record in an empty script. -/
theorem stepStopsWithoutOperation : Obligations.StepStopsWithoutOperation := by
  refine ⟨fun s hc => step_of_not_admitted hc, fun s hc hs => ?_, fun s hc hd => step_of_truncated hc hd⟩
  have hd : decode s.script = .empty := by rw [hs, decode_nil]
  exact step_of_empty hc hd

end Machine

end Sys2Proof
end

section
/-! The dispatch table of the register bus (R82): each row against the register's own address, in both directions. -/

namespace Sys2Proof

variable {m : Config} {a : Addr} {r : RegName}

/-- A row of the table answers only the address of its own register, under any configuration. -/
theorem RegName.eq_addr_of_ofAddr (h : RegName.ofAddr m a = some r) : a = r.addr m := by
  unfold RegName.ofAddr at h
  split_ifs at h with h1 h2 h3 h4 h5 h6 h7 h8 hw <;> cases h
  exacts [h1, h2, h3, h4, h5, h6, h7, h8, (window_byte hw).symm]

/-- The eight addresses are different (R8), each from the ones of the rows before it, which are asked first. -/
theorem RegName.ofAddr_addr_of_single (hd : m.registerAddrs.Nodup) (hr : ∀ k, r ≠ .wave k) :
    RegName.ofAddr m (r.addr m) = some r := by
  have hne : m.registerAddrs.Pairwise fun x y => y ≠ x := hd.imp Ne.symm
  simp only [Config.registerAddrs, List.pairwise_cons, List.forall_mem_cons] at hne
  cases r with
  | wave k => exact absurd rfl (hr k)
  | _ => simp [RegName.ofAddr, RegName.addr, hne]

/-- None of the eight addresses lies in the wave-table window (R8), so its row is reached, and gives the byte's own
index back. -/
theorem RegName.ofAddr_addr_wave (hw : ∀ b ∈ m.registerAddrs, m.inWaveWindow b = false) (k : BitVec 4) :
    RegName.ofAddr m ((RegName.wave k).addr m) = some (.wave k) := by
  have hne : ∀ b ∈ m.registerAddrs, m.waveBase + k.setWidth 16 ≠ b := by
    rintro b hb rfl
    exact absurd (window_in m k) (by simp [hw _ hb])
  simp only [Config.registerAddrs, List.forall_mem_cons] at hne
  simp [RegName.ofAddr, RegName.addr, hne, window_in]

/-- R8, R82: under an admitted configuration every register answers its own address. -/
theorem RegName.ofAddr_addr (hm : m.admitted = true) (r : RegName) : RegName.ofAddr m (r.addr m) = some r := by
  obtain ⟨-, -, -, -, -, hd, hw⟩ := (admitted_iff m).mp hm
  cases r with
  | wave k => exact ofAddr_addr_wave hw k
  | _ => exact ofAddr_addr_of_single hd (by simp)

/-- Settles O8: a row answers only its own register's address, and every register answers its own. -/
theorem registerDispatchTable : Obligations.RegisterDispatchTable := by
  intro m a r hm
  constructor
  · exact RegName.eq_addr_of_ofAddr
  · rintro rfl
    exact RegName.ofAddr_addr hm r

end Sys2Proof
end

section
/-! What every operation leaves alone: all of them run under the fault register, and only MEM_WRITE reaches `M`. -/

namespace Sys2Proof.Machine

variable {s t : State} {i : Instr}

/-! ### What a step can do -/

/-- Everything a step that answers a next state can do. -/
theorem step_cases (h : step s = .next t) :
    s.cfg.admitted = true ∧ ((∃ i rest, decode s.script = .record i rest ∧ exec i (s.setScript rest) = .next t)
      ∨ (∃ why rest, decode s.script = .undefined why rest ∧ undefinedOperation (s.setScript rest) = .next t)) := by
  by_cases hc : s.cfg.admitted = true
  · refine ⟨hc, ?_⟩
    cases hd : decode s.script with
    | record i rest => exact .inl ⟨i, rest, rfl, step_of_record hc hd ▸ h⟩
    | undefined why rest => exact .inr ⟨why, rest, rfl, step_of_undefined hc hd ▸ h⟩
    | truncated => rw [step_of_truncated hc hd] at h; cases h
    | empty => rw [step_of_empty hc hd] at h; cases h
  · rw [step_of_not_admitted (by simpa using hc)] at h
    cases h

/-! ### Operations under the fault register -/

/-- Every instruction but RESET is refused while a fault is held (R150). -/
theorem exec_faulted {c : FaultCode} (hi : i ≠ .reset) (h : s.fault = some c) : exec i s = .next s := by
  cases s
  cases h
  cases i with
  | reset => exact absurd rfl hi
  | _ => rfl

theorem step_undefined_faulted {why : Reject} {rest : List Byte} {c : FaultCode} (hc : s.cfg.admitted = true)
    (hd : decode s.script = .undefined why rest) (h : s.fault = some c) : step s = .next (s.setScript rest) := by
  rw [step_of_undefined hc hd]
  exact runOp_faulted (s := s.setScript rest) h

/-- An operation that raises no fault either does its work or, while a fault is held, nothing. -/
theorem runOp_pure_cases {g : State → State} (h : runOp s (fun s => .ok (g s)) = .next t) : t = s ∨ t = g s := by
  obtain ⟨-, rfl⟩ | ⟨-, hok⟩ | ⟨-, c, herr, -⟩ := runOp_cases h
  · exact .inl rfl
  · cases hok; exact .inr rfl
  · cases herr

/-- Settles O10: every instruction but RESET and a refused record run under the fault register; RESET clears it. -/
theorem faultRefusesAllButReset : Obligations.FaultRefusesAllButReset := fun s _ h =>
  ⟨fun _ hi => exec_faulted hi h, fun _ _ hc hd => step_undefined_faulted hc hd h, resetBlock s, rfl, resetBlock_fault⟩

/-! ### Memory and the trace -/

/-- The parts outside the block (R44, R45, R164) as an operation other than MEM_WRITE leaves them: the configuration and
`M` the same, the trace at most longer. -/
structure KeepsOutside (s t : State) : Prop where
  cfg : t.cfg = s.cfg
  mem : t.mem = s.mem
  trace : ∃ es, t.trace = s.trace ++ es

theorem KeepsOutside.of_eq (hc : t.cfg = s.cfg) (hm : t.mem = s.mem) (ht : t.trace = s.trace) : KeepsOutside s t :=
  ⟨hc, hm, [], by rw [ht, List.append_nil]⟩

theorem SameOutsideVideo.keepsOutside (h : SameOutsideVideo s t) : KeepsOutside s t :=
  ⟨h.cfg, h.mem, h.trace⟩

theorem runOp_keepsOutside {body : State → Except FaultCode State} (h : runOp s body = .next t)
    (hb : ∀ u, body s = .ok u → KeepsOutside s u) : KeepsOutside s t :=
  runOp_keeps h (.of_eq rfl rfl rfl) (fun _ => .of_eq rfl rfl rfl) hb

theorem runOp_pure_keepsOutside {g : State → State} (h : runOp s (fun s => .ok (g s)) = .next t)
    (hg : KeepsOutside s (g s)) : KeepsOutside s t := by
  obtain rfl | rfl := runOp_pure_cases h
  · exact .of_eq rfl rfl rfl
  · exact hg

theorem undefinedOperation_keepsOutside (h : undefinedOperation s = .next t) : KeepsOutside s t :=
  runOp_keepsOutside h fun _ hu => by cases hu

theorem fetchSprite_keepsOutside {oam : BitVec 6} {x : Byte} {off line : BitVec 3}
    (h : fetchSprite oam x off line s = .ok t) : KeepsOutside s t := by
  obtain ⟨-, -, rfl⟩ := fetchSprite_cases h
  exact .of_eq rfl rfl rfl

theorem withQueue_keepsOutside {r : Except FaultCode (List Colour)} (h : withQueue s r = .ok t) :
    KeepsOutside s t := by
  cases r with
  | ok q => cases h; exact .of_eq rfl rfl rfl
  | error c => cases h

theorem writeReg_keepsOutside (r : RegName) (d : Byte) (s : State) : KeepsOutside s (writeReg r d s) := by
  rw [writeReg_frame]
  exact .of_eq rfl rfl rfl

theorem regWrite_keepsOutside (a : Addr) (d : Byte) (s : State) : KeepsOutside s (regWrite a d s) := by
  unfold regWrite
  split
  · exact writeReg_keepsOutside _ d s
  · exact .of_eq rfl rfl rfl

theorem regRead_keepsOutside (a : Addr) (s : State) : KeepsOutside s (regRead a s) := by
  obtain ⟨v, n, heq⟩ := regRead_frame a s
  rw [heq]
  exact ⟨rfl, rfl, _, rfl⟩

/-! The rows of the three formats that no host record has, one lemma for each format. -/

/-- An FST4 row is the fetch step of its state. -/
theorem exec_fetchState (st : FetchState) (s : State) : exec st.instr s = runOp s (fetchStepOf st) := by
  cases st <;> rfl

/-- A MODE2 row is the step of its mode. -/
theorem exec_mode (m : Mode) (s : State) : exec m.instr s = runOp s (modeStep m) := by cases m <;> rfl

/-- A REG16 row is the access to its register. -/
theorem exec_regName (r : RegName) (acc : BusAccess) (s : State) :
    exec (r.instr acc) s = runOp s (fun s => .ok (busAccess r acc s)) := by cases r <;> rfl

theorem fetchState_keepsOutside (st : FetchState) (h : exec st.instr s = .next t) : KeepsOutside s t := by
  rw [exec_fetchState] at h
  refine runOp_keepsOutside h fun u hu => ?_
  rw [(fetchStepOf_frame hu).1]
  exact .of_eq rfl rfl rfl

theorem mode_keepsOutside (m : Mode) (h : exec m.instr s = .next t) : KeepsOutside s t := by
  rw [exec_mode] at h
  exact runOp_keepsOutside h fun u hu => (modeStep_same hu).keepsOutside

theorem regName_keepsOutside (r : RegName) (acc : BusAccess) (h : exec (r.instr acc) s = .next t) :
    KeepsOutside s t := by
  rw [exec_regName] at h
  cases acc with
  | read => exact runOp_pure_keepsOutside h ⟨rfl, rfl, _, rfl⟩
  | write d => exact runOp_pure_keepsOutside h (writeReg_keepsOutside r d s)

/-- Every instruction but MEM_WRITE keeps `M`, the configuration and the trace so far (R44, R45, R164). -/
theorem exec_keepsOutside (hi : ∀ a d, i ≠ .memWrite a d) (h : exec i s = .next t) : KeepsOutside s t := by
  cases i with
  | reset => cases h; exact .of_eq rfl rfl rfl
  | ppuTick => rw [exec_ppuTick] at h; exact runOp_keepsOutside h fun u hu => (tickPpu_same hu).keepsOutside
  | waveTick => rw [exec_waveTick] at h; exact runOp_pure_keepsOutside h ⟨rfl, rfl, _, rfl⟩
  | regWrite a d => rw [exec_regWrite] at h; exact runOp_pure_keepsOutside h (regWrite_keepsOutside a d s)
  | regRead a => rw [exec_regRead] at h; exact runOp_pure_keepsOutside h (regRead_keepsOutside a s)
  | memWrite a d => exact absurd rfl (hi a d)
  | fStart ma da off line sgn => rw [exec_fStart] at h; exact runOp_pure_keepsOutside h (.of_eq rfl rfl rfl)
  | fFetchSprite oam x off line =>
    rw [exec_fFetchSprite] at h
    exact runOp_keepsOutside h fun _ => fetchSprite_keepsOutside
  | fTick => rw [exec_fTick] at h; exact runOp_keepsOutside h fun u hu => (tickFetcher_same hu).1.keepsOutside
  | qClear => rw [exec_qClear] at h; exact runOp_pure_keepsOutside h (.of_eq rfl rfl rfl)
  | qPush8 c => rw [exec_qPush8] at h; exact runOp_keepsOutside h fun _ => withQueue_keepsOutside
  | qPop => rw [exec_qPop] at h; exact runOp_pure_keepsOutside h (.of_eq rfl rfl rfl)
  | qMix offset pixel behind => rw [exec_qMix] at h; exact runOp_keepsOutside h fun _ => withQueue_keepsOutside
  | qSize => rw [exec_qSize] at h; exact runOp_pure_keepsOutside h (.of_eq rfl rfl rfl)
  | readTileId => exact fetchState_keepsOutside .readTileId h
  | readTileData0 => exact fetchState_keepsOutside .readTileData0 h
  | readTileData1 => exact fetchState_keepsOutside .readTileData1 h
  | pushToFifo => exact fetchState_keepsOutside .pushToFifo h
  | readSpriteId => exact fetchState_keepsOutside .readSpriteId h
  | readSpriteFlags => exact fetchState_keepsOutside .readSpriteFlags h
  | readSpriteData0 => exact fetchState_keepsOutside .readSpriteData0 h
  | readSpriteData1 => exact fetchState_keepsOutside .readSpriteData1 h
  | mixInFifo => exact fetchState_keepsOutside .mixInFifo h
  | lineBlank => exact mode_keepsOutside .lineBlank h
  | frameBlank => exact mode_keepsOutside .frameBlank h
  | search => exact mode_keepsOutside .search h
  | transfer => exact mode_keepsOutside .transfer h
  | lcdc acc => exact regName_keepsOutside .lcdc acc h
  | ly acc => exact regName_keepsOutside .ly acc h
  | lyc acc => exact regName_keepsOutside .lyc acc h
  | nr30 acc => exact regName_keepsOutside .nr30 acc h
  | nr31 acc => exact regName_keepsOutside .nr31 acc h
  | nr32 acc => exact regName_keepsOutside .nr32 acc h
  | nr33 acc => exact regName_keepsOutside .nr33 acc h
  | nr34 acc => exact regName_keepsOutside .nr34 acc h
  | waveTable k acc => exact regName_keepsOutside (.wave k) acc h

/-- Settles O21: the case split over the instructions, of which MEM_WRITE is left out. -/
theorem onlyMemWriteChangesMemory : Obligations.OnlyMemWriteChangesMemory :=
  fun _ _ _ hi h => (exec_keepsOutside hi h).mem

/-- Every instruction keeps the configuration and the trace so far: MEM_WRITE too, whose one effect is on `M`. -/
theorem exec_keeps_cfg_trace (h : exec i s = .next t) : t.cfg = s.cfg ∧ ∃ es, t.trace = s.trace ++ es := by
  by_cases hi : ∃ a d, i = .memWrite a d
  · obtain ⟨a, d, rfl⟩ := hi
    rw [exec_memWrite] at h
    obtain rfl | rfl := runOp_pure_cases h
    · exact ⟨rfl, [], (List.append_nil _).symm⟩
    · exact ⟨rfl, [], (List.append_nil _).symm⟩
  · obtain ⟨hcfg, -, htrace⟩ := exec_keepsOutside (fun a d he => hi ⟨a, d, he⟩) h
    exact ⟨hcfg, htrace⟩

theorem step_keeps_cfg_trace (h : step s = .next t) : t.cfg = s.cfg ∧ ∃ es, t.trace = s.trace ++ es := by
  obtain ⟨-, ⟨i, rest, -, hx⟩ | ⟨-, rest, -, hx⟩⟩ := step_cases h
  · exact exec_keeps_cfg_trace (s := s.setScript rest) hx
  · obtain ⟨hcfg, -, htrace⟩ := undefinedOperation_keepsOutside hx
    exact ⟨hcfg, htrace⟩

/-- Settles O19: the trace's part of what every step keeps. -/
theorem traceOnlyGrows : Obligations.TraceOnlyGrows := fun _ _ h => (step_keeps_cfg_trace h).2

end Sys2Proof.Machine
end

section
/-! The invariant: each part of the state may be replaced by one that meets its own part of the invariant, and every
operation a host can present keeps all of them. -/

namespace Sys2Proof

/-! ### What the decoder can read -/

/-- A record that decodes is well-formed and is a host operation: no row of FST4, MODE2 or REG16 decodes (R64, R67). -/
theorem decode_record {bs rest : List Byte} {i : Instr} (h : decode bs = .record i rest) :
    i.wellFormed = true ∧ (encodeBytes i).isSome = true := by
  unfold decode at h
  split at h
  · cases h
  · split at h
    · cases h
    · rename_i o _
      cases o <;> simp only [decodeOperands, decodeStart, decodeFetchSprite, decodeMix] at h
      case fFetchSprite =>
        repeat' split at h
        all_goals cases h
        exact ⟨decide_eq_true ‹_›, rfl⟩
      all_goals
        repeat' split at h
        all_goals cases h
        all_goals exact ⟨rfl, rfl⟩

namespace Machine

variable {s t : State}

/-! ### Replacing one part of the state -/

theorem State.Inv.setPpu {p : Ppu} (h : s.Inv) (hp : PpuInv s.cfg p) (hs : SpritesInv s.cfg p)
    (he : p.mode = .transfer → s.f.enabled = true) : (s.setPpu p).Inv := by
  obtain ⟨hc, -, -, hf, -, hq, hw, hm⟩ := h
  exact ⟨hc, hp, hs, hf, he, hq, hw, hm⟩

theorem State.Inv.setF {f : Fetcher} (h : s.Inv) (hf : FetcherInv f)
    (he : s.ppu.mode = .transfer → f.enabled = true) : (s.setF f).Inv := by
  obtain ⟨hc, hp, hs, -, -, hq, hw, hm⟩ := h
  exact ⟨hc, hp, hs, hf, he, hq, hw, hm⟩

theorem State.Inv.setQ {q : List Colour} (h : s.Inv) (hq : q.length ≤ 16) : (s.setQ q).Inv := by
  obtain ⟨hc, hp, hs, hf, he, -, hw, hm⟩ := h
  exact ⟨hc, hp, hs, hf, he, hq, hw, hm⟩

theorem State.Inv.setW {w : Wave} (h : s.Inv) (hw : w.div < s.cfg.audioClockFactor) : (s.setW w).Inv := by
  obtain ⟨hc, hp, hs, hf, he, hq, -, hm⟩ := h
  exact ⟨hc, hp, hs, hf, he, hq, hw, hm⟩

theorem State.Inv.setMem {m : Memory} (h : s.Inv) (hm : m.wf = true) : (s.setMem m).Inv := by
  obtain ⟨hc, hp, hs, hf, he, hq, hw, -⟩ := h
  exact ⟨hc, hp, hs, hf, he, hq, hw, hm⟩

/-! ### The fetcher -/

/-- A defined state off the sprite path is a background state, which is what may be saved (R97, R99). -/
theorem background_of_not_inSpritePath {c : BitVec 4} (h : inSpritePath c = false) (hc : c.toNat ≤ 8) :
    c.toNat ≤ 3 := by
  simp only [inSpritePath, Bool.and_eq_false_iff, decide_eq_false_iff_not] at h
  omega

/-- F_START puts the fetcher in a background state, with its divider and the queue cleared (R98). -/
theorem startFetch_inv (h : s.Inv) (ma da : Addr) (off : BitVec 5) (line : BitVec 3) (sgn : Bool) :
    (startFetch ma da off line sgn s).Inv := by
  obtain ⟨-, -, -, ⟨-, hold, hoam, -⟩, -⟩ := id h
  exact State.Inv.setQ (h.setF ⟨FetchState.code_le .readTileId, hold, hoam, Nat.zero_lt_two⟩ fun _ => rfl)
    (Nat.zero_le 16)

theorem fetchSprite_inv (h : s.Inv) {oam : BitVec 6} {x : Byte} {off line : BitVec 3} (ho : oam.toNat ≤ 39)
    (ht : fetchSprite oam x off line s = .ok t) : t.Inv := by
  obtain ⟨-, -, -, ⟨hst, -, -, hdiv⟩, hen, -⟩ := id h
  obtain ⟨-, hbg, rfl⟩ := fetchSprite_cases ht
  exact h.setF ⟨FetchState.code_le .readSpriteId, background_of_not_inSpritePath hbg hst, ho, hdiv⟩ hen

theorem tickFetcher_inv (h : s.Inv) (ht : tickFetcher s = .ok t) : t.Inv := by
  obtain ⟨-, -, -, ⟨hst, hold, hoam, hdiv⟩, hen, hq, -⟩ := id h
  obtain ⟨hfr, hen', hold', hoam'⟩ := tickFetcher_frame ht
  rw [hfr]
  refine State.Inv.setQ (h.setF ⟨tickFetcher_state ht hst hold, ?_, ?_, tickFetcher_div ht hdiv⟩ ?_)
    (tickFetcher_queue ht hq)
  · rwa [hold']
  · rwa [hoam']
  · rwa [hen']

/-! ### The blank phases -/

/-- The invariant speaks of `line_tick` in Search alone. -/
theorem inv_setLineTick (h : s.Inv) (hm : s.ppu.mode ≠ .search) (n : Nat) :
    (s.setPpu { s.ppu with lineTick := n }).Inv := by
  obtain ⟨-, ⟨hd, hly, hx, htr, hfb, hvis, -⟩, ⟨hlen, hpw, h39, -⟩, -, hen, -⟩ := id h
  exact h.setPpu ⟨hd, hly, hx, htr, hfb, hvis, fun hs => absurd hs hm⟩
    ⟨hlen, hpw, h39, fun hs => absurd hs hm⟩ hen

/-- A line or a column below 255 is counted without wrapping (log 12). -/
theorem toNat_add_one {b : Byte} (h : b.toNat < 255) : (b + 1).toNat = b.toNat + 1 :=
  BitVec.toNat_add_of_lt (y := 1#8) (Nat.succ_lt_succ h)

/-- A blank phase starts a line: in FrameBlank on a line from 144 on, or in Search, with no slot examined yet, on a
line below 144 (R122, R123). -/
theorem inv_startLine (h : s.Inv) {ly : Byte} {mode : Mode}
    (hl : (mode = .frameBlank ∧ 144 ≤ ly.toNat ∧ ly.toNat ≤ 153) ∨ (mode = .search ∧ ly.toNat ≤ 143)) :
    (s.setPpu { s.ppu with lineTick := 0, ly := ly, mode := mode }).Inv := by
  obtain ⟨-, ⟨hd, -, hx, -⟩, ⟨hlen, hpw, h39, -⟩, -⟩ := id h
  obtain ⟨rfl, hlo, hhi⟩ | ⟨rfl, hhi⟩ := hl
  · exact h.setPpu ⟨hd, hhi, hx, nofun, fun _ => hlo, fun hn => absurd rfl hn, nofun⟩ ⟨hlen, hpw, h39, nofun⟩ nofun
  · exact h.setPpu ⟨hd, Nat.le_trans hhi (by decide), hx, nofun, nofun, fun _ => hhi, fun _ => Nat.succ_pos 39⟩
      ⟨hlen, hpw, h39, fun _ h0 => absurd h0 (Nat.lt_irrefl 0)⟩ nofun

theorem stepLineBlank_inv (h : s.Inv) (hm : s.ppu.mode = .lineBlank) : (stepLineBlank s).Inv := by
  obtain ⟨-, ⟨-, -, -, -, -, hvis, -⟩, -⟩ := id h
  have hly : s.ppu.ly.toNat ≤ 143 := hvis (by simp [hm])
  have hsucc := toNat_add_one (b := s.ppu.ly) (by omega)
  simp only [stepLineBlank, Config.visibleLines]
  split
  · split
    · exact inv_startLine h (.inl ⟨rfl, by omega, by omega⟩)
    · exact inv_startLine h (.inr ⟨rfl, by omega⟩)
  · exact h

theorem stepFrameBlank_inv (h : s.Inv) (hm : s.ppu.mode = .frameBlank) : (stepFrameBlank s).Inv := by
  obtain ⟨-, ⟨-, hly, -, -, hfb, -⟩, -⟩ := id h
  have hly' := hfb hm
  have hsucc := toNat_add_one (b := s.ppu.ly) (by omega)
  simp only [stepFrameBlank, Config.totalLines]
  split
  · split
    · exact inv_startLine h (.inr ⟨rfl, by decide⟩)
    · exact inv_startLine (mode := s.ppu.mode) h (.inl ⟨hm, by omega, by omega⟩)
  · exact h

/-! ### Search -/

/-- What the buffer holds once the slots below `k` are examined: at most `MAX_SPRITES` of them, in ascending order
(R40). -/
def SlotsBelow (m : Config) (k : Nat) (es : List SpriteEntry) : Prop :=
  es.length ≤ m.maxSprites ∧ es.Pairwise (fun e e' => e.oam.toNat < e'.oam.toNat) ∧ ∀ e ∈ es, e.oam.toNat < k

theorem SlotsBelow.nil (m : Config) (k : Nat) : SlotsBelow m k [] := ⟨Nat.zero_le _, .nil, nofun⟩

/-- Slot `k`'s entry stays above the ones before it. -/
theorem SlotsBelow.append {m : Config} {k : Nat} {es : List SpriteEntry} {e : SpriteEntry} (h : SlotsBelow m k es)
    (hlen : es.length < m.maxSprites) (he : e.oam.toNat = k) : SlotsBelow m (k + 1) (es ++ [e]) := by
  obtain ⟨-, hpw, hlt⟩ := h
  refine ⟨by simpa using hlen, ?_, ?_⟩
  · refine List.pairwise_append.mpr ⟨hpw, List.pairwise_singleton _ _, fun a ha b hb => ?_⟩
    rw [List.mem_singleton.mp hb, he]
    exact hlt a ha
  · intro a ha
    obtain ha | ha := List.mem_append.mp ha
    · exact Nat.lt_succ_of_lt (hlt a ha)
    · rw [List.mem_singleton.mp ha, he]
      exact Nat.lt_succ_self k

/-- Examining slot `k` (R116). -/
theorem selectSprite_slotsBelow {k : Nat} (hk : k ≤ 39) (h : SlotsBelow s.cfg k s.ppu.sprites) :
    ∃ es, SlotsBelow s.cfg (k + 1) es ∧ selectSprite k s = s.setPpu { s.ppu with sprites := es } := by
  refine ⟨_, ?_, selectSprite_frame k s⟩
  obtain heq | ⟨hlen, e, heq, he, -⟩ := selectSprite_sprites k s <;> rw [heq]
  · obtain ⟨hlen, hpw, hlt⟩ := h
    exact ⟨hlen, hpw, fun e he => Nat.lt_succ_of_lt (hlt e he)⟩
  · refine h.append hlen ?_
    rw [he, BitVec.toNat_ofNat]
    omega

/-- A Search step examines the slot of its step, in a buffer that the first step clears, and the last one enters
Transfer (R114). -/
theorem stepSearch_cases {k : Nat} (hk : k ≤ 39) (hlt : s.ppu.lineTick = k + 1)
    (h : 0 < k → SlotsBelow s.cfg k s.ppu.sprites) :
    ∃ es, SlotsBelow s.cfg (k + 1) es
      ∧ stepSearch s = if s.ppu.lineTick = 40 then enterTransfer (s.setPpu { s.ppu with sprites := es })
          else s.setPpu { s.ppu with sprites := es } := by
  have hslot : s.ppu.lineTick - 1 = k := by omega
  by_cases h0 : k = 0
  · obtain ⟨es, hes, heq⟩ :=
      selectSprite_slotsBelow (s := s.setPpu { s.ppu with sprites := [] }) hk (.nil _ _)
    exact ⟨es, hes, by simp only [stepSearch, hslot, if_pos h0, heq]; rfl⟩
  · obtain ⟨es, hes, heq⟩ := selectSprite_slotsBelow hk (h (Nat.pos_of_ne_zero h0))
    exact ⟨es, hes, by simp only [stepSearch, hslot, if_neg h0, heq]⟩

/-- Slots examined one per step of the line make a buffer of the invariant. -/
theorem SlotsBelow.spritesInv {m : Config} {p : Ppu} (h : SlotsBelow m p.lineTick p.sprites) (hk : p.lineTick ≤ 40) :
    SpritesInv m p := by
  obtain ⟨hlen, hpw, hlt⟩ := h
  exact ⟨hlen, hpw, fun e he => Nat.le_of_lt_succ (Nat.lt_of_lt_of_le (hlt e he) hk), fun _ _ => hlt⟩

/-- `enter_transfer` after the last slot starts the line's fetch at column 0 (R115). -/
theorem enterTransfer_inv (h : s.Inv) (hm : s.ppu.mode = .search) {k : Nat} (hk : k ≤ 40) {es : List SpriteEntry}
    (hes : SlotsBelow s.cfg k es) : (enterTransfer (s.setPpu { s.ppu with lineTick := k, sprites := es })).Inv := by
  obtain ⟨hc, ⟨hd, hly, -, -, -, hvis, -⟩, -, ⟨-, hold, hoam, -⟩, -, -, hw, hmem⟩ := h
  exact ⟨hc, ⟨hd, hly, Nat.zero_le _, fun _ => Nat.succ_pos 159, nofun, fun _ => hvis (by simp [hm]), nofun⟩,
    SlotsBelow.spritesInv hes hk, ⟨FetchState.code_le .readTileId, hold, hoam, Nat.zero_lt_two⟩, fun _ => rfl,
    Nat.zero_le _, hw, hmem⟩

/-- The controller's Search step, `line_tick` counted before it (R113, R114). -/
theorem stepSearch_inv (h : s.Inv) (hm : s.ppu.mode = .search) :
    (stepSearch (s.setPpu { s.ppu with lineTick := s.ppu.lineTick + 1 })).Inv := by
  obtain ⟨-, ⟨hd, hly, hx, htr, hfb, hvis, hlt⟩, ⟨hlen, hpw, -, hbelow⟩, -, hen, -⟩ := id h
  have htick : s.ppu.lineTick < 40 := hlt hm
  obtain ⟨es, hes, heq⟩ := stepSearch_cases (s := s.setPpu { s.ppu with lineTick := s.ppu.lineTick + 1 })
    (Nat.le_of_lt_succ htick) rfl fun h0 => ⟨hlen, hpw, hbelow hm h0⟩
  rw [heq]
  split
  · exact enterTransfer_inv h hm htick hes
  · rename_i hne
    exact h.setPpu ⟨hd, hly, hx, htr, hfb, hvis, fun _ => Nat.lt_of_le_of_ne htick hne⟩ (hes.spritesInv htick) hen

/-! ### Transfer -/

/-- The sprite trigger marks one entry of the buffer and preempts the fetcher with its operands (R119). -/
theorem spriteTrigger_inv (h : s.Inv) (ht : spriteTrigger s = .ok t) : t.Inv := by
  obtain ⟨-, hp, ⟨hlen, hpw, h39, hbelow⟩, ⟨hst, -, -, hdiv⟩, hen, -⟩ := id h
  obtain rfl | ⟨before, after, e, -, hbg, -, -, hes, -, rfl⟩ := spriteTrigger_cases ht
  · exact h
  · rw [hes] at hlen hpw h39 hbelow
    refine State.Inv.setF (h.setPpu hp ⟨?_, ?_, ?_, ?_⟩ hen)
      ⟨FetchState.code_le .readSpriteId, background_of_not_inSpritePath hbg hst, h39 e (by simp), hdiv⟩ hen
    · simpa using hlen
    · simpa [List.pairwise_append] using hpw
    · simpa only [List.forall_mem_append, List.forall_mem_cons] using h39
    · simpa only [List.forall_mem_append, List.forall_mem_cons] using hbelow

theorem spriteTrigger_mode (ht : spriteTrigger s = .ok t) : t.ppu.mode = s.ppu.mode := by
  obtain rfl | ⟨_, _, _, -, -, -, -, -, -, rfl⟩ := spriteTrigger_cases ht <;> rfl

/-- A pop counts a column, and the 160th ends Transfer (R120, R121). -/
theorem popPixel_inv (h : s.Inv) (hm : s.ppu.mode = .transfer) : (popPixel s).Inv := by
  obtain ⟨hc, ⟨hd, hly, -, htr, -, hvis, -⟩, ⟨hlen, hpw, h39, -⟩, hf, hen, hq, hw, hmem⟩ := id h
  have hx := htr hm
  have hvis' := hvis (by simp [hm])
  have hsucc := toNat_add_one (b := s.ppu.x) (by omega)
  obtain ⟨-, heq⟩ | ⟨c, rest, hcons, hpop⟩ := popPixel_cases s
  · rwa [heq]
  · have hrest : rest.length ≤ 16 := by rw [hcons] at hq; exact Nat.le_of_succ_le hq
    obtain ⟨hne, heq⟩ | ⟨he, heq⟩ := hpop <;> rw [heq]
    · have hx' : (s.ppu.x + 1).toNat < 160 := by omega
      exact State.Inv.setPpu (h.setQ hrest)
        ⟨hd, hly, hx'.le, fun _ => hx', by simp [hm], fun _ => hvis', by simp [hm]⟩ ⟨hlen, hpw, h39, by simp [hm]⟩ hen
    · exact ⟨hc, ⟨hd, hly, he.le, nofun, nofun, fun _ => hvis', nofun⟩, ⟨hlen, hpw, h39, nofun⟩, hf, nofun, hrest, hw,
        hmem⟩

theorem stepTransfer_inv (h : s.Inv) (hm : s.ppu.mode = .transfer) (ht : stepTransfer s = .ok t) : t.Inv := by
  obtain ⟨s1, s2, h1, h2, hpop⟩ := stepTransfer_cases ht
  have hinv := spriteTrigger_inv (tickFetcher_inv h h1) h2
  have hm2 : s2.ppu.mode = .transfer := by
    rw [spriteTrigger_mode h2, (tickFetcher_same h1).2, hm]
  obtain ⟨-, rfl⟩ | ⟨-, rfl⟩ := hpop
  · exact popPixel_inv hinv hm2
  · exact hinv

/-! ### PPU_TICK -/

theorem controllerStep_inv (h : s.Inv) (ht : controllerStep s = .ok t) : t.Inv := by
  unfold controllerStep at ht
  cases hm : s.ppu.mode <;> rw [hm] at ht
  case search =>
    cases ht
    exact stepSearch_inv h hm
  case transfer => exact stepTransfer_inv (inv_setLineTick h (by simp [hm]) (s.ppu.lineTick + 1)) hm ht
  case lineBlank =>
    cases ht
    exact stepLineBlank_inv (inv_setLineTick h (by simp [hm]) _) hm
  case frameBlank =>
    cases ht
    exact stepFrameBlank_inv (inv_setLineTick h (by simp [hm]) _) hm

/-- The controller's divider below its factor (R41). -/
theorem inv_setPpuDiv (h : s.Inv) {d : Nat} (hd : d < s.cfg.ppuClockFactor) :
    (s.setPpu { s.ppu with div := d }).Inv := by
  obtain ⟨-, ⟨-, hp⟩, hs, -, hen, -⟩ := id h
  exact h.setPpu ⟨hd, hp⟩ hs hen

theorem tickPpu_inv (h : s.Inv) (ht : tickPpu s = .ok t) : t.Inv := by
  obtain ⟨hc, -⟩ := id h
  obtain ⟨hfac, -⟩ := (admitted_iff s.cfg).mp hc
  unfold tickPpu at ht
  split at ht
  · cases ht
    exact inv_setPpuDiv h ‹_›
  · exact controllerStep_inv (inv_setPpuDiv h hfac) ht

/-! ### The other operations -/

/-- The block at its reset values meets the invariant, the memory's canonical form kept (R162, R164). -/
theorem resetBlock_inv (h : s.Inv) : (resetBlock s).Inv := by
  obtain ⟨hc, -, -, -, -, -, -, hm⟩ := id h
  obtain ⟨hppu, haudio, -⟩ := (admitted_iff s.cfg).mp hc
  have hf : FetcherInv Fetcher.reset := by decide
  exact ⟨hc, ⟨hppu, Nat.zero_le _, Nat.zero_le _, nofun, nofun, fun _ => Nat.zero_le _, fun _ => Nat.succ_pos 39⟩,
    ⟨Nat.zero_le _, .nil, nofun, nofun⟩, hf, nofun, Nat.zero_le _, haudio, hm⟩

theorem regWrite_inv (h : s.Inv) (a : Addr) (d : Byte) : (regWrite a d s).Inv := by
  unfold regWrite
  split
  · rename_i r _
    cases r <;> exact h
  · exact h

theorem regRead_inv (h : s.Inv) (a : Addr) : (regRead a s).Inv := by
  obtain ⟨v, n, heq⟩ := regRead_frame a s
  rw [heq]
  exact h

theorem tickWave_inv (h : s.Inv) : (tickWave s).Inv := by
  obtain ⟨hc, -, -, -, -, -, hw, -⟩ := id h
  obtain ⟨-, haudio, -⟩ := (admitted_iff s.cfg).mp hc
  have hinv := h.setW (waveAfter_div haudio hw)
  exact hinv

theorem withQueue_inv (h : s.Inv) {r : Except FaultCode (List Colour)} (hr : ∀ q, r = .ok q → q.length ≤ 16)
    (ht : withQueue s r = .ok t) : t.Inv := by
  cases r with
  | ok q => cases ht; exact h.setQ (hr q rfl)
  | error c => cases ht

theorem runOp_inv {body : State → Except FaultCode State} (h : s.Inv) (ht : runOp s body = .next t)
    (hb : ∀ u, body s = .ok u → u.Inv) : t.Inv :=
  runOp_keeps ht h (fun _ => h) hb

theorem runOp_pure_inv {g : State → State} (h : s.Inv) (ht : runOp s (fun s => .ok (g s)) = .next t)
    (hg : (g s).Inv) : t.Inv := by
  refine runOp_inv h ht fun u hu => ?_
  cases hu
  exact hg

theorem popQueue_length (q : List Colour) : (popQueue (queuePop q)).length ≤ q.length := by
  cases q with
  | nil => exact Nat.le_refl 0
  | cons c rest => exact Nat.le_succ rest.length

/-- Every operation a host can present keeps the invariant. -/
theorem exec_inv {i : Instr} (h : s.Inv) (hwf : i.wellFormed = true) (hop : (encodeBytes i).isSome = true)
    (ht : exec i s = .next t) : t.Inv := by
  obtain ⟨-, -, -, -, -, hq, -, hmem⟩ := id h
  cases i with
  | reset => cases ht; exact resetBlock_inv h
  | ppuTick => rw [exec_ppuTick] at ht; exact runOp_inv h ht fun _ => tickPpu_inv h
  | waveTick => rw [exec_waveTick] at ht; exact runOp_pure_inv h ht (tickWave_inv h)
  | regWrite a d => rw [exec_regWrite] at ht; exact runOp_pure_inv h ht (regWrite_inv h a d)
  | regRead a => rw [exec_regRead] at ht; exact runOp_pure_inv h ht (regRead_inv h a)
  | memWrite a d => rw [exec_memWrite] at ht; exact runOp_pure_inv h ht (h.setMem (memWrite_wf hmem))
  | fStart ma da off line sgn =>
    rw [exec_fStart] at ht
    exact runOp_pure_inv h ht (startFetch_inv h ma da off line sgn)
  | fFetchSprite oam x off line =>
    rw [exec_fFetchSprite] at ht
    exact runOp_inv h ht fun _ => fetchSprite_inv h (of_decide_eq_true hwf)
  | fTick => rw [exec_fTick] at ht; exact runOp_inv h ht fun _ => tickFetcher_inv h
  | qClear => rw [exec_qClear] at ht; exact runOp_pure_inv h ht (h.setQ (Nat.zero_le 16))
  | qPush8 c =>
    rw [exec_qPush8] at ht
    refine runOp_inv h ht fun _ => withQueue_inv h fun q hpush => ?_
    obtain ⟨hlen, rfl⟩ := queuePush8_cases hpush
    rw [List.length_append, Lanes.length_toList]
    omega
  | qPop => rw [exec_qPop] at ht; exact runOp_pure_inv h ht (h.setQ (Nat.le_trans (popQueue_length s.q) hq))
  | qMix offset pixel behind =>
    rw [exec_qMix] at ht
    refine runOp_inv h ht fun _ => withQueue_inv h fun q hmix => ?_
    obtain ⟨-, -, rfl⟩ := queueMix_cases hmix
    rwa [List.length_set]
  | qSize => rw [exec_qSize] at ht; exact runOp_pure_inv h ht h
  | _ => cases hop

theorem undefinedOperation_inv (h : s.Inv) (ht : undefinedOperation s = .next t) : t.Inv :=
  runOp_inv h ht fun _ hu => by cases hu

/-- Settles O18: what the decoder reads is a host operation, and each of those keeps every part of the invariant. -/
theorem stepKeepsInvariant : Obligations.StepKeepsInvariant := by
  intro s t h ht
  obtain ⟨-, ⟨i, rest, hd, hx⟩ | ⟨why, rest, -, hx⟩⟩ := step_cases ht
  · obtain ⟨hwf, hop⟩ := decode_record hd
    exact exec_inv (s := s.setScript rest) h hwf hop hx
  · exact undefinedOperation_inv (s := s.setScript rest) h hx

end Machine
end Sys2Proof
end

section
/-! The two units: what each unit's tick leaves of the other's state (R46, R57), and the LCDC bits that no tick reads
(R31, R127). -/

namespace Sys2Proof.Machine

variable {s t : State} {v : Byte}

/-! ### The units' ticks -/

theorem ppuTick_frame (h : exec .ppuTick s = .next t) :
    t.w = s.w ∧ t.mem = s.mem ∧ t.cfg = s.cfg ∧ t.script = s.script ∧ t.result = s.result ∧ t.draws = s.draws
      ∧ t.ppu.lcdc = s.ppu.lcdc ∧ t.ppu.lyc = s.ppu.lyc := by
  rw [exec_ppuTick] at h
  obtain ⟨-, rfl⟩ | ⟨-, hok⟩ | ⟨-, c, -, rfl⟩ := runOp_cases h
  · exact ⟨rfl, rfl, rfl, rfl, rfl, rfl, rfl, rfl⟩
  · obtain ⟨hcfg, hw, -, hmem, hscript, hresult, hdraws, hlcdc, hlyc, -⟩ := tickPpu_same hok
    exact ⟨hw, hmem, hcfg, hscript, hresult, hdraws, hlcdc, hlyc⟩
  · exact ⟨rfl, rfl, rfl, rfl, rfl, rfl, rfl, rfl⟩

theorem waveTick_frame (h : exec .waveTick s = .next t) :
    t.ppu = s.ppu ∧ t.f = s.f ∧ t.q = s.q ∧ t.mem = s.mem ∧ t.cfg = s.cfg ∧ t.script = s.script
      ∧ t.fault = s.fault ∧ t.draws = s.draws
      ∧ t.w.table = s.w.table ∧ t.w.nr30 = s.w.nr30 ∧ t.w.nr31 = s.w.nr31 ∧ t.w.nr32 = s.w.nr32
      ∧ t.w.nr33 = s.w.nr33 := by
  rw [exec_waveTick] at h
  obtain rfl | rfl := runOp_pure_cases h
  · exact ⟨rfl, rfl, rfl, rfl, rfl, rfl, rfl, rfl, rfl, rfl, rfl, rfl, rfl⟩
  · exact ⟨rfl, rfl, rfl, rfl, rfl, rfl, rfl, rfl, waveAfter_frame s.cfg s.w⟩

/-- Settles O50: the frames of the two ticks. -/
theorem unitsAreDisjoint : Obligations.UnitsAreDisjoint := ⟨fun _ _ => ppuTick_frame, fun _ _ => waveTick_frame⟩

/-! ### A tick with other LCDC bits -/

/-- The state with another LCDC byte. -/
def State.setLcdc (s : State) (v : Byte) : State := s.setPpu { s.ppu with lcdc := v }

/-- PushToFIFO reads background-on, and no other fetch step reads LCDC (R104). -/
theorem fetchStepOf_setLcdc (st : FetchState) (hb : lcdcBackgroundOn v = lcdcBackgroundOn s.ppu.lcdc) :
    fetchStepOf st (s.setLcdc v) = (fetchStepOf st s).map (·.setLcdc v) := by
  cases st
  case pushToFifo =>
    have hrow : backgroundRow (s.setLcdc v) = backgroundRow s :=
      congrArg (fun on => if on then decodeRow s.f.data0 s.f.data1 false else Lanes.zero) hb
    simp only [fetchStepOf, stepPushToFifo, hrow]
    change (if Config.queueLow < s.q.length then _ else withQueue _ (queuePush8 s.q _)) = _
    split_ifs
    · rfl
    · cases queuePush8 s.q (backgroundRow s) <;> rfl
  case mixInFifo =>
    simp only [fetchStepOf, stepMixInFifo]
    change (if s.q.length < Config.queueLow then _ else withQueue _ (queueMixFrom s.q 0
      (decodeRow s.f.sprData0 s.f.sprData1 (spriteHFlip s.f.sprFlags)).toList (spriteBehind s.f.sprFlags))) = _
    split_ifs
    · rfl
    · cases queueMixFrom s.q 0 _ _ <;> rfl
  all_goals rfl

theorem fetchStep_setLcdc (hb : lcdcBackgroundOn v = lcdcBackgroundOn s.ppu.lcdc) :
    fetchStep (s.setLcdc v) = (fetchStep s).map (·.setLcdc v) := by
  have hcode : FetchState.ofCode (s.setLcdc v).f.state = FetchState.ofCode s.f.state := rfl
  simp only [fetchStep, hcode]
  cases FetchState.ofCode s.f.state with
  | none => rfl
  | some st => exact fetchStepOf_setLcdc st hb

theorem tickFetcher_setLcdc (hb : lcdcBackgroundOn v = lcdcBackgroundOn s.ppu.lcdc) :
    tickFetcher (s.setLcdc v) = (tickFetcher s).map (·.setLcdc v) := by
  unfold tickFetcher
  change (if s.f.enabled = false then _ else if s.f.div + 1 < Config.fetchClockFactor then _ else _) = _
  split_ifs
  · rfl
  · rfl
  · exact fetchStep_setLcdc (s := s.setF { s.f with div := 0 }) hb

theorem fetchSprite_setLcdc (oam : BitVec 6) (x : Byte) (off line : BitVec 3) :
    fetchSprite oam x off line (s.setLcdc v) = (fetchSprite oam x off line s).map (·.setLcdc v) := by
  unfold fetchSprite
  change (if s.f.enabled = false then _ else if inSpritePath s.f.state = true then _ else _) = _
  split_ifs <;> rfl

/-- The sprite trigger reads sprite-on (R119). -/
theorem spriteTrigger_setLcdc (hs : lcdcSpriteOn v = lcdcSpriteOn s.ppu.lcdc) :
    spriteTrigger (s.setLcdc v) = (spriteTrigger s).map (·.setLcdc v) := by
  have htake : takeSprite (s.setLcdc v).ppu.x (s.setLcdc v).ppu.sprites = takeSprite s.ppu.x s.ppu.sprites := rfl
  have hon : lcdcSpriteOn (s.setLcdc v).ppu.lcdc = lcdcSpriteOn s.ppu.lcdc := hs
  unfold spriteTrigger
  rw [htake, hon]
  change (if lcdcSpriteOn s.ppu.lcdc = false ∨ inSpritePath s.f.state = true ∨ s.q.length < Config.queueLow
    then _ else _) = _
  split_ifs
  · rfl
  · cases takeSprite s.ppu.x s.ppu.sprites with
    | none => rfl
    | some found => exact fetchSprite_setLcdc (s := s.setPpu { s.ppu with sprites := found.2 }) _ _ _ _

/-- A pop reads display-on (R120). -/
theorem popPixel_setLcdc (hd : lcdcDisplayOn v = lcdcDisplayOn s.ppu.lcdc) :
    popPixel (s.setLcdc v) = (popPixel s).setLcdc v := by
  have hev : ∀ c, pixelEvent (s.setLcdc v).ppu.lcdc c = pixelEvent s.ppu.lcdc c := fun c =>
    congrArg (fun on => if on then Event.writePixel c else .blank) hd
  have hq : queuePop (s.setLcdc v).q = queuePop s.q := rfl
  simp only [popPixel, hq, hev]
  cases queuePop s.q with
  | none => rfl
  | some popped =>
    change (if (s.ppu.x + 1).toNat = Config.screenWidth then _ else _) =
      State.setLcdc (if (s.ppu.x + 1).toNat = Config.screenWidth then _ else _) v
    split_ifs <;> rfl

theorem stepTransfer_setLcdc (hb : lcdcBackgroundOn v = lcdcBackgroundOn s.ppu.lcdc)
    (hs : lcdcSpriteOn v = lcdcSpriteOn s.ppu.lcdc) (hd : lcdcDisplayOn v = lcdcDisplayOn s.ppu.lcdc) :
    stepTransfer (s.setLcdc v) = (stepTransfer s).map (·.setLcdc v) := by
  simp only [stepTransfer, tickFetcher_setLcdc hb]
  cases h1 : tickFetcher s with
  | error c => rfl
  | ok s1 =>
    have hl1 := (tickFetcher_same h1).1.lcdc
    simp only [Except.map, spriteTrigger_setLcdc (hl1 ▸ hs)]
    cases h2 : spriteTrigger s1 with
    | error c => rfl
    | ok s2 =>
      have hl2 := (spriteTrigger_same h2).lcdc.trans hl1
      have hgate : popAllowed (s2.setLcdc v) = popAllowed s2 := rfl
      simp only [hgate, popPixel_setLcdc (hl2 ▸ hd), apply_ite (State.setLcdc · v)]

theorem selectSprite_setLcdc (k : Nat) (s : State) :
    selectSprite k (s.setLcdc v) = (selectSprite k s).setLcdc v := by
  unfold selectSprite
  change (if s.ppu.sprites.length < s.cfg.maxSprites ∧ spriteOnLine s.ppu.ly (s.memRead (oamAddr s.cfg k 0)) = true
    then _ else _) = State.setLcdc (if _ then _ else _) v
  split_ifs <;> rfl

/-- Entering Transfer reads the map and the tile data that LCDC selects (R115). -/
theorem enterTransfer_setLcdc (hm : lcdcMapSelect v = lcdcMapSelect s.ppu.lcdc)
    (ht : lcdcTileDataSelect v = lcdcTileDataSelect s.ppu.lcdc) :
    enterTransfer (s.setLcdc v) = (enterTransfer s).setLcdc v := by
  have hv : (s.setLcdc v).ppu.lcdc = v := rfl
  simp only [enterTransfer, mapRowAddr, tileDataBase, hv, hm, ht]
  rfl

theorem stepSearch_setLcdc (hm : lcdcMapSelect v = lcdcMapSelect s.ppu.lcdc)
    (ht : lcdcTileDataSelect v = lcdcTileDataSelect s.ppu.lcdc) :
    stepSearch (s.setLcdc v) = (stepSearch s).setLcdc v := by
  have hslot : ∀ k (u : State), u.ppu.lcdc = s.ppu.lcdc →
      (if s.ppu.lineTick = Config.searchSteps then enterTransfer (selectSprite k (u.setLcdc v))
        else selectSprite k (u.setLcdc v))
      = (if s.ppu.lineTick = Config.searchSteps then enterTransfer (selectSprite k u)
          else selectSprite k u).setLcdc v := by
    intro k u hu
    have hlcdc : (selectSprite k u).ppu.lcdc = s.ppu.lcdc := by rw [selectSprite_frame]; exact hu
    rw [selectSprite_setLcdc]
    split_ifs
    · exact enterTransfer_setLcdc (hlcdc ▸ hm) (hlcdc ▸ ht)
    · rfl
  have htick : (s.setLcdc v).ppu.lineTick = s.ppu.lineTick := rfl
  by_cases h0 : s.ppu.lineTick - 1 = 0
  · simp only [stepSearch, htick, h0, if_true]
    exact hslot 0 (s.setPpu { s.ppu with sprites := [] }) rfl
  · simp only [stepSearch, htick, h0, if_false]
    exact hslot _ s rfl

theorem stepLineBlank_setLcdc : stepLineBlank (s.setLcdc v) = (stepLineBlank s).setLcdc v := by
  simp only [stepLineBlank]
  change (if s.cfg.lineSteps ≤ s.ppu.lineTick then
    if (s.ppu.ly + 1).toNat = Config.visibleLines then _ else _ else _) = State.setLcdc (if _ then _ else _) v
  split_ifs <;> rfl

theorem stepFrameBlank_setLcdc : stepFrameBlank (s.setLcdc v) = (stepFrameBlank s).setLcdc v := by
  unfold stepFrameBlank
  change (if s.cfg.lineSteps ≤ s.ppu.lineTick then
    if s.ppu.ly.toNat = Config.totalLines - 1 then _ else _ else _) = _
  split_ifs <;> rfl

/-- The LCDC fields a PPU_TICK reads (R31), the same in two bytes. -/
structure SameLcdcFields (a b : Byte) : Prop where
  backgroundOn : lcdcBackgroundOn a = lcdcBackgroundOn b
  spriteOn : lcdcSpriteOn a = lcdcSpriteOn b
  mapSelect : lcdcMapSelect a = lcdcMapSelect b
  tileDataSelect : lcdcTileDataSelect a = lcdcTileDataSelect b
  displayOn : lcdcDisplayOn a = lcdcDisplayOn b

theorem sameLcdcFields_of_mask {a b : Byte} (h : a &&& 0x9B = b &&& 0x9B) : SameLcdcFields a b := by
  have hbit : ∀ n, (0x9B : Byte).getLsbD n = true → a.getLsbD n = b.getLsbD n := fun n hn => by
    simpa only [BitVec.getLsbD_and, hn, Bool.and_true] using congrArg (BitVec.getLsbD · n) h
  exact ⟨hbit 0 rfl, hbit 1 rfl, hbit 3 rfl, hbit 4 rfl, hbit 7 rfl⟩

theorem modeStep_setLcdc (m : Mode) (h : SameLcdcFields v s.ppu.lcdc) :
    modeStep m (s.setLcdc v) = (modeStep m s).map (·.setLcdc v) := by
  cases m with
  | lineBlank => exact congrArg Except.ok stepLineBlank_setLcdc
  | frameBlank => exact congrArg Except.ok stepFrameBlank_setLcdc
  | search => exact congrArg Except.ok (stepSearch_setLcdc h.mapSelect h.tileDataSelect)
  | transfer => exact stepTransfer_setLcdc h.backgroundOn h.spriteOn h.displayOn

theorem tickPpu_setLcdc (h : SameLcdcFields v s.ppu.lcdc) :
    tickPpu (s.setLcdc v) = (tickPpu s).map (·.setLcdc v) := by
  unfold tickPpu
  change (if s.ppu.div + 1 < s.cfg.ppuClockFactor then _ else _) = _
  split_ifs
  · rfl
  · exact modeStep_setLcdc (s := s.setPpu { s.ppu with div := 0, lineTick := s.ppu.lineTick + 1 }) _ h

/-- The tick ends as it does with the other byte, in a fault or a refusal too. -/
theorem ppuTick_setLcdc (hv : SameLcdcFields v s.ppu.lcdc) (h : exec .ppuTick s = .next t) :
    exec .ppuTick (s.setLcdc v) = .next (t.setLcdc v) := by
  have hmap := tickPpu_setLcdc hv
  rw [exec_ppuTick] at h ⊢
  obtain ⟨⟨c, hc⟩, rfl⟩ | ⟨hn, hok⟩ | ⟨hn, c, herr, rfl⟩ := runOp_cases h
  · exact runOp_faulted (s := t.setLcdc v) hc
  · exact runOp_ok (s := s.setLcdc v) hn (by rw [hmap, hok]; rfl)
  · exact runOp_error (s := s.setLcdc v) hn (by rw [hmap, herr]; rfl)

/-- Settles O49: equal under the mask 0x9B, the two bytes agree on each of the five fields that PPU_TICK reads. -/
theorem unusedLcdcBitsHaveNoEffect : Obligations.UnusedLcdcBitsHaveNoEffect :=
  fun _ _ _ hv h => ppuTick_setLcdc (sameLcdcFields_of_mask hv) h

/-! ### The power-on state -/

/-- Settles O16: each field by the definition of the reset values; LY and LYC are both 0, so they coincide. -/
theorem powerOnValues : Obligations.PowerOnValues :=
  ⟨rfl, rfl, rfl, rfl, rfl, rfl, rfl, rfl, rfl, rfl, rfl, rfl, rfl, rfl, rfl⟩

end Sys2Proof.Machine
end

section
/-! The two ticks in either order (R57): PPU_TICK neither reads nor writes what WAVE_TICK writes, and of the trace it
only extends the end. -/

namespace Sys2Proof.Machine

variable {s t : State} (w : Wave) (r : OpResult) (es : List Event)

/-! ### The state with another audio side -/

/-- The state with another channel and another value returned, and the events `es` before those of its trace. -/
def State.withAudio (s : State) (w : Wave) (r : OpResult) (es : List Event) : State :=
  { s with w := w, result := r, trace := es ++ s.trace }

theorem setPpu_withAudio (p : Ppu) : (s.setPpu p).withAudio w r es = (s.withAudio w r es).setPpu p := rfl
theorem setF_withAudio (f : Fetcher) : (s.setF f).withAudio w r es = (s.withAudio w r es).setF f := rfl
theorem setQ_withAudio (q : List Colour) : (s.setQ q).withAudio w r es = (s.withAudio w r es).setQ q := rfl

/-- An event goes to the end of the trace, whatever stands before it. -/
theorem emit_withAudio (e : Event) : (s.emit e).withAudio w r es = (s.withAudio w r es).emit e := by
  simp [State.withAudio, State.emit]

theorem ite_withAudio (c : Prop) [Decidable c] (a b : State) :
    (if c then a else b).withAudio w r es = if c then a.withAudio w r es else b.withAudio w r es :=
  apply_ite (State.withAudio · w r es) c a b

/-- The same for an operation's answer, which may be a fault. -/
theorem map_withAudio_ite (c : Prop) [Decidable c] (a b : Except FaultCode State) :
    (if c then a else b).map (·.withAudio w r es)
      = if c then a.map (·.withAudio w r es) else b.map (·.withAudio w r es) :=
  apply_ite (Except.map (·.withAudio w r es)) c a b

/-! ### The fetcher -/

theorem withQueue_withAudio (a : Except FaultCode (List Colour)) :
    withQueue (s.withAudio w r es) a = (withQueue s a).map (·.withAudio w r es) := by
  cases a <;> rfl

theorem fetchStepOf_withAudio (st : FetchState) :
    fetchStepOf st (s.withAudio w r es) = (fetchStepOf st s).map (·.withAudio w r es) := by
  cases st
  case pushToFifo =>
    simp only [fetchStepOf, stepPushToFifo, map_withAudio_ite, ← withQueue_withAudio]
    rfl
  case mixInFifo =>
    simp only [fetchStepOf, stepMixInFifo, map_withAudio_ite, ← withQueue_withAudio]
    rfl
  all_goals rfl

theorem fetchStep_withAudio : fetchStep (s.withAudio w r es) = (fetchStep s).map (·.withAudio w r es) := by
  have hcode : FetchState.ofCode (s.withAudio w r es).f.state = FetchState.ofCode s.f.state := rfl
  simp only [fetchStep, hcode]
  cases FetchState.ofCode s.f.state with
  | none => rfl
  | some st => exact fetchStepOf_withAudio w r es st

theorem tickFetcher_withAudio : tickFetcher (s.withAudio w r es) = (tickFetcher s).map (·.withAudio w r es) := by
  simp only [tickFetcher, map_withAudio_ite, ← fetchStep_withAudio]
  rfl

theorem fetchSprite_withAudio (oam : BitVec 6) (x : Byte) (off line : BitVec 3) :
    fetchSprite oam x off line (s.withAudio w r es) = (fetchSprite oam x off line s).map (·.withAudio w r es) := by
  simp only [fetchSprite, map_withAudio_ite]
  rfl

/-! ### The mode steps -/

theorem spriteTrigger_withAudio :
    spriteTrigger (s.withAudio w r es) = (spriteTrigger s).map (·.withAudio w r es) := by
  have htake : takeSprite (s.withAudio w r es).ppu.x (s.withAudio w r es).ppu.sprites
    = takeSprite s.ppu.x s.ppu.sprites := rfl
  simp only [spriteTrigger, map_withAudio_ite, htake]
  cases takeSprite s.ppu.x s.ppu.sprites with
  | none => rfl
  | some found =>
    simp only [← fetchSprite_withAudio]
    rfl

theorem popPixel_withAudio : popPixel (s.withAudio w r es) = (popPixel s).withAudio w r es := by
  have hq : queuePop (s.withAudio w r es).q = queuePop s.q := rfl
  simp only [popPixel, hq]
  cases queuePop s.q with
  | none => rfl
  | some popped =>
    simp only [endTransfer, ite_withAudio, setPpu_withAudio, emit_withAudio, setF_withAudio, setQ_withAudio]
    rfl

theorem stepTransfer_withAudio : stepTransfer (s.withAudio w r es) = (stepTransfer s).map (·.withAudio w r es) := by
  simp only [stepTransfer, tickFetcher_withAudio]
  cases tickFetcher s with
  | error c => rfl
  | ok s1 =>
    simp only [Except.map, spriteTrigger_withAudio]
    cases spriteTrigger s1 with
    | error c => rfl
    | ok s2 =>
      simp only [ite_withAudio, ← popPixel_withAudio]
      rfl

theorem selectSprite_withAudio (k : Nat) :
    selectSprite k (s.withAudio w r es) = (selectSprite k s).withAudio w r es := by
  simp only [selectSprite, ite_withAudio]
  rfl

theorem enterTransfer_withAudio : enterTransfer (s.withAudio w r es) = (enterTransfer s).withAudio w r es := rfl

theorem stepSearch_withAudio : stepSearch (s.withAudio w r es) = (stepSearch s).withAudio w r es := by
  simp only [stepSearch, ite_withAudio, ← enterTransfer_withAudio, ← selectSprite_withAudio]
  rfl

theorem stepLineBlank_withAudio : stepLineBlank (s.withAudio w r es) = (stepLineBlank s).withAudio w r es := by
  simp only [stepLineBlank, ite_withAudio, emit_withAudio]
  rfl

theorem stepFrameBlank_withAudio : stepFrameBlank (s.withAudio w r es) = (stepFrameBlank s).withAudio w r es := by
  simp only [stepFrameBlank, ite_withAudio]
  rfl

theorem modeStep_withAudio (m : Mode) :
    modeStep m (s.withAudio w r es) = (modeStep m s).map (·.withAudio w r es) := by
  cases m with
  | lineBlank => exact congrArg Except.ok (stepLineBlank_withAudio w r es)
  | frameBlank => exact congrArg Except.ok (stepFrameBlank_withAudio w r es)
  | search => exact congrArg Except.ok (stepSearch_withAudio w r es)
  | transfer => exact stepTransfer_withAudio w r es

/-! ### PPU_TICK -/

/-- PPU_TICK on another audio side is the same tick (R57). -/
theorem tickPpu_withAudio : tickPpu (s.withAudio w r es) = (tickPpu s).map (·.withAudio w r es) := by
  simp only [tickPpu, controllerStep, map_withAudio_ite, ← modeStep_withAudio]
  rfl

/-- What a PPU_TICK does from `s` it does from `s` on every audio side, with the same events. -/
theorem tickPpu_on_audio (h : tickPpu s = .ok t) : ∃ new, t.trace = s.trace ++ new ∧ ∀ w r tr,
    tickPpu { s with w := w, result := r, trace := tr } = .ok { t with w := w, result := r, trace := tr ++ new } := by
  have hs : ∀ w r tr, { s with w := w, result := r, trace := tr }
      = ({ s with trace := [] } : State).withAudio w r tr := by simp [State.withAudio]
  have hself : tickPpu s = (tickPpu { s with trace := [] }).map (·.withAudio s.w s.result s.trace) := by
    rw [← tickPpu_withAudio, ← hs]
  rw [h] at hself
  cases hu : tickPpu { s with trace := [] } with
  | error c => rw [hu] at hself; cases hself
  | ok u =>
    rw [hu] at hself
    cases hself
    exact ⟨u.trace, rfl, fun w r tr => by rw [hs, tickPpu_withAudio, hu]; rfl⟩

theorem modeStep_ok {m : Mode} (hf : s.f.state.toNat ≤ 8) (he : m = .transfer → s.f.enabled = true) :
    ∃ t, modeStep m s = .ok t := by
  cases m with
  | transfer => exact stepTransfer_ok (he rfl) hf
  | lineBlank | frameBlank | search => exact ⟨_, rfl⟩

/-- Under the invariant PPU_TICK raises no fault: the fetcher is in a defined state, and enabled during Transfer. -/
theorem tickPpu_ok (h : s.Inv) : ∃ t, tickPpu s = .ok t := by
  obtain ⟨-, -, -, ⟨hst, -⟩, hen, -⟩ := h
  unfold tickPpu
  split
  · exact ⟨_, rfl⟩
  · exact modeStep_ok (m := s.ppu.mode) hst hen

/-! ### One pulse -/

theorem execAll_ppuTick_waveTick (hs : s.fault = none) (ht : t.fault = none) (h : tickPpu s = .ok t) :
    execAll [.ppuTick, .waveTick] s = .next (tickWave t) := by
  simp only [execAll, exec_ppuTick, runOp_ok hs h, exec_waveTick, runOp_pure tickWave ht]

theorem execAll_waveTick_ppuTick (hs : s.fault = none) (h : tickPpu (tickWave s) = .ok t) :
    execAll [.waveTick, .ppuTick] s = .next t := by
  have hw : (tickWave s).fault = none := hs
  simp only [execAll, exec_waveTick, runOp_pure tickWave hs, exec_ppuTick, runOp_ok hw h]

/-- Settles O51: after WAVE_TICK, which changes the audio side alone, PPU_TICK does what it does before; and PPU_TICK
leaves WAVE_TICK the configuration and the channel that it reads. -/
theorem ticksCommute : Obligations.TicksCommute := by
  intro s hinv hs
  obtain ⟨t, ht⟩ := tickPpu_ok hinv
  have hsame := tickPpu_same ht
  have hfault : t.fault = none := hsame.fault.trans hs
  obtain ⟨es, htrace, haudio⟩ := tickPpu_on_audio ht
  refine ⟨tickWave t, es, waveSample s.cfg s.w, hfault, ?_, ?_⟩
  · rw [execAll_ppuTick_waveTick hs hfault ht, ← htrace, ← hsame.cfg, ← hsame.w]
    rfl
  · rw [execAll_waveTick_ppuTick hs (haudio _ _ _), ← hsame.cfg, ← hsame.w]
    rfl

end Sys2Proof.Machine
end

section
/-! The operand bytes that several fields share (R66): each comes apart as it was put together, and is put together again
from its fields when its must-be-zero bits are zero. -/

namespace Sys2Proof

/-- The bits of a byte from `k` up are zero exactly when the byte is below `2 ^ k`. -/
theorem highBits_eq_zero_iff {k n : Nat} (hk : k + n = 8) (b : Byte) : b.extractLsb' k n = 0 ↔ b.toNat < 2 ^ k := by
  have hlt : b.toNat / 2 ^ k < 2 ^ n := by
    rw [Nat.div_lt_iff_lt_mul (by positivity), ← pow_add, Nat.add_comm, hk]
    exact b.isLt
  rw [← BitVec.toNat_inj, BitVec.extractLsb'_toNat, Nat.shiftRight_eq_div_pow, Nat.mod_eq_of_lt hlt]
  simp

/-! ### A field of `n` bits above one of three, as F_START and F_FETCH_SPRITE have it -/

theorem packed_high {n : Nat} (hn : n ≤ 5) (hi : BitVec n) (lo : BitVec 3) :
    (BitVec.ofNat 8 (hi.toNat * 8 + lo.toNat)).extractLsb' 3 n = hi := by
  have hhi : hi.toNat < 2 ^ 5 := hi.isLt.trans_le (Nat.pow_le_pow_right (by decide) hn)
  have hlo := lo.isLt
  have hdiv : (hi.toNat * 8 + lo.toNat) % 2 ^ 8 / 2 ^ 3 = hi.toNat := by omega
  apply BitVec.eq_of_toNat_eq
  rw [BitVec.extractLsb'_toNat, BitVec.toNat_ofNat, Nat.shiftRight_eq_div_pow, hdiv, Nat.mod_eq_of_lt hi.isLt]

theorem packed_low {n : Nat} (hi : BitVec n) (lo : BitVec 3) :
    (BitVec.ofNat 8 (hi.toNat * 8 + lo.toNat)).extractLsb' 0 3 = lo := by
  have hlo := lo.isLt
  apply BitVec.eq_of_toNat_eq
  rw [BitVec.extractLsb'_toNat, BitVec.toNat_ofNat, Nat.shiftRight_zero]
  omega

theorem packed_fields {n : Nat} {b : Byte} (hb : b.toNat < 2 ^ (3 + n)) :
    BitVec.ofNat 8 ((b.extractLsb' 3 n).toNat * 8 + (b.extractLsb' 0 3).toNat) = b := by
  have hhi : b.toNat / 2 ^ 3 < 2 ^ n := by
    rwa [Nat.div_lt_iff_lt_mul (by decide), ← pow_add, Nat.add_comm]
  have hlt := b.isLt
  apply BitVec.eq_of_toNat_eq
  rw [BitVec.toNat_ofNat, BitVec.extractLsb'_toNat, BitVec.extractLsb'_toNat, Nat.shiftRight_zero,
    Nat.shiftRight_eq_div_pow, Nat.mod_eq_of_lt hhi]
  omega

/-! ### F_START: `tileOffset` above `tileLine`, and the byte of `signedID` -/

@[simp] theorem startByte_offset (off : BitVec 5) (line : BitVec 3) : (startByte off line).extractLsb' 3 5 = off :=
  packed_high (by decide) off line

@[simp] theorem startByte_line (off : BitVec 5) (line : BitVec 3) : (startByte off line).extractLsb' 0 3 = line :=
  packed_low off line

@[simp] theorem startByte_fields (b : Byte) : startByte (b.extractLsb' 3 5) (b.extractLsb' 0 3) = b :=
  packed_fields b.isLt

theorem signByte_eq_of_mbz {b : Byte} (h : b.extractLsb' 1 7 = 0) : (BitVec.ofBool (b.getLsbD 0)).setWidth 8 = b := by
  rw [highBits_eq_zero_iff rfl] at h
  revert b; decide

/-! ### F_FETCH_SPRITE: `oam` alone, and `spriteOffset` above `spriteLine` -/

theorem oamByte_mbz (oam : BitVec 6) : (oam.setWidth 8 : Byte).extractLsb' 6 2 = 0 := by
  rw [highBits_eq_zero_iff rfl, BitVec.toNat_setWidth_of_le (by decide)]
  exact oam.isLt

@[simp] theorem oamByte_oam (oam : BitVec 6) : (oam.setWidth 8 : Byte).extractLsb' 0 6 = oam := by
  apply BitVec.eq_of_toNat_eq
  simpa using oam.isLt

theorem oamByte_eq_of_mbz {b : Byte} (h : b.extractLsb' 6 2 = 0) : (b.extractLsb' 0 6).setWidth 8 = b := by
  rw [highBits_eq_zero_iff rfl] at h
  apply BitVec.eq_of_toNat_eq
  simp; omega

theorem spriteByte_mbz (off line : BitVec 3) : (spriteByte off line).extractLsb' 6 2 = 0 := by
  rw [highBits_eq_zero_iff rfl]
  have := off.isLt
  have := line.isLt
  simp [spriteByte]; omega

@[simp] theorem spriteByte_offset (off line : BitVec 3) : (spriteByte off line).extractLsb' 3 3 = off :=
  packed_high (by decide) off line

@[simp] theorem spriteByte_line (off line : BitVec 3) : (spriteByte off line).extractLsb' 0 3 = line :=
  packed_low off line

theorem spriteByte_eq_of_mbz {b : Byte} (h : b.extractLsb' 6 2 = 0) :
    spriteByte (b.extractLsb' 3 3) (b.extractLsb' 0 3) = b :=
  packed_fields ((highBits_eq_zero_iff rfl b).mp h)

/-! ### Q_MIX: `offset` in the high nibble, bit 3 zero, `behind` above `pixel` -/

theorem mixByte_mbz (off : BitVec 4) (p : Colour) (behind : Bool) : (mixByte off p behind).getLsbD 3 = false := by
  revert off p behind; decide

@[simp] theorem mixByte_offset (off : BitVec 4) (p : Colour) (behind : Bool) :
    (mixByte off p behind).extractLsb' 4 4 = off := by
  revert off p behind; decide

@[simp] theorem mixByte_pixel (off : BitVec 4) (p : Colour) (behind : Bool) :
    (mixByte off p behind).extractLsb' 0 2 = p := by
  revert off p behind; decide

theorem mixByte_behind (off : BitVec 4) (p : Colour) (behind : Bool) :
    (mixByte off p behind).getLsbD 2 = behind := by
  revert off p behind; decide

theorem mixByte_eq_of_mbz {b : Byte} (h : b.getLsbD 3 = false) :
    mixByte (b.extractLsb' 4 4) (b.extractLsb' 0 2) (b.getLsbD 2) = b := by
  revert b; decide

end Sys2Proof
end

section
/-! Whole records (R64–R67, R84): the decoder against the encoder, operand bytes first, in both directions. -/

namespace Sys2Proof

variable {bs rest rest' : List Byte} {i : Instr}

/-! ### The operand bytes the encoder writes are read back -/

theorem decodeStart_encoded (m t : Addr) (off : BitVec 5) (line : BitVec 3) (sgn : Bool) (rest : List Byte) :
    decodeStart m t (startByte off line) ((BitVec.ofBool sgn).setWidth 8) rest
      = .record (.fStart m t off line sgn) rest := by
  cases sgn <;> simp [decodeStart]

theorem decodeFetchSprite_encoded {oam : BitVec 6} (h : oam.toNat ≤ 39) (x : Byte) (off line : BitVec 3)
    (rest : List Byte) :
    decodeFetchSprite (oam.setWidth 8) x (spriteByte off line) rest = .record (.fFetchSprite oam x off line) rest := by
  simp [decodeFetchSprite, oamByte_mbz, spriteByte_mbz, h]

theorem decodeMix_encoded (off : BitVec 4) (p : Colour) (behind : Bool) (rest : List Byte) :
    decodeMix (mixByte off p behind) rest = .record (.qMix off p behind) rest := by
  rw [decodeMix, if_pos (mixByte_mbz off p behind), mixByte_offset, mixByte_pixel, mixByte_behind]

/-- Settles O4: the opcode byte selects its row, and the row's operand bytes are read back. -/
theorem encodeThenDecodeRecord : Obligations.EncodeThenDecodeRecord := by
  intro i bytes rest hwf henc
  cases i <;> cases henc <;> rw [List.cons_append, decode_code]
  case fStart ma da off line sgn => simp [decodeOperands, decodeStart_encoded]
  case fFetchSprite oam x off line =>
    have hoam : oam.toNat ≤ 39 := of_decide_eq_true hwf
    simp [decodeOperands, decodeFetchSprite_encoded hoam]
  case qMix off p behind => simp [decodeOperands, decodeMix_encoded]
  all_goals simp [decodeOperands]

/-! ### The bytes of an accepted record are the ones the encoder writes -/

theorem decodeStart_record {m t : Addr} {b4 b5 : Byte} (h : decodeStart m t b4 b5 rest = .record i rest') :
    rest' = rest ∧ ∃ off line sgn, i = .fStart m t off line sgn
      ∧ b4 = startByte off line ∧ b5 = (BitVec.ofBool sgn).setWidth 8 := by
  unfold decodeStart at h
  split at h
  · rename_i hz
    cases h
    exact ⟨rfl, _, _, _, rfl, (startByte_fields b4).symm, (signByte_eq_of_mbz hz).symm⟩
  · cases h

theorem decodeFetchSprite_record {b1 b2 b3 : Byte} (h : decodeFetchSprite b1 b2 b3 rest = .record i rest') :
    rest' = rest ∧ ∃ oam off line, i = .fFetchSprite oam b2 off line
      ∧ b1 = oam.setWidth 8 ∧ b3 = spriteByte off line := by
  unfold decodeFetchSprite at h
  split_ifs at h with hz
  cases h
  exact ⟨rfl, _, _, _, rfl, (oamByte_eq_of_mbz hz.1).symm, (spriteByte_eq_of_mbz hz.2).symm⟩

theorem decodeMix_record {b1 : Byte} (h : decodeMix b1 rest = .record i rest') :
    rest' = rest ∧ ∃ off p behind, i = .qMix off p behind ∧ b1 = mixByte off p behind := by
  unfold decodeMix at h
  split at h
  · rename_i hz
    cases h
    exact ⟨rfl, _, _, _, rfl, (mixByte_eq_of_mbz hz).symm⟩
  · cases h

/-- The bytes an opcode's operands are read from begin with the ones the encoder writes after that opcode (R66, R67). -/
theorem decodeOperands_record {o : Op8} (h : decodeOperands o bs = .record i rest) :
    ∃ bytes, encodeBytes i = some bytes ∧ o.code :: bs = bytes ++ rest := by
  cases o <;> simp only [decodeOperands] at h
  case fStart =>
    split at h
    · obtain ⟨rfl, off, line, sgn, rfl, rfl, rfl⟩ := decodeStart_record h
      exact ⟨_, rfl, by simp⟩
    · cases h
  case fFetchSprite =>
    split at h
    · obtain ⟨rfl, oam, off, line, rfl, rfl, rfl⟩ := decodeFetchSprite_record h
      exact ⟨_, rfl, by simp⟩
    · cases h
  case qMix =>
    split at h
    · obtain ⟨rfl, off, p, behind, rfl, rfl⟩ := decodeMix_record h
      exact ⟨_, rfl, by simp⟩
    · cases h
  case regWrite | regRead | memWrite | qPush8 =>
    split at h <;> cases h
    exact ⟨_, rfl, by simp⟩
  all_goals
    cases h
    exact ⟨_, rfl, rfl⟩

/-- An accepted record is an opcode of R65 followed by its operand bytes (R64). -/
theorem decode_record_cases (h : decode bs = .record i rest) :
    ∃ o ops, bs = o.code :: ops ∧ decodeOperands o ops = .record i rest := by
  unfold decode at h
  split at h
  · cases h
  · split at h
    · cases h
    · rename_i o ho
      exact ⟨o, _, by rw [Op8.code_of_ofByte ho], h⟩

/-- Settles O5: an accepted record is an opcode and operand bytes that the encoder writes after it, and `decode_record`
gives the well-formedness. -/
theorem decodeThenEncodeRecord : Obligations.DecodeThenEncodeRecord := by
  intro bs i rest h
  obtain ⟨o, ops, rfl, hops⟩ := decode_record_cases h
  exact ⟨(decode_record h).1, decodeOperands_record hops⟩

end Sys2Proof
end

section
/-! Refused records (R84): what the decoder makes of a reserved opcode and of a bad operand byte, and the step that
follows. -/

namespace Sys2Proof

variable {rest : List Byte}

theorem Op8.ofByte_eq_none {b : Byte} (h : ∀ o : Op8, b ≠ o.code) : Op8.ofByte b = none :=
  List.find?_eq_none.mpr fun o _ ho => h o (eq_of_beq ho).symm

theorem decode_reserved {b : Byte} (h : ∀ o : Op8, b ≠ o.code) : decode (b :: rest) = .undefined .reservedOpcode rest := by
  simp [decode, Op8.ofByte_eq_none h]

theorem decode_fStart (mh ml th tl b4 b5 : Byte) (rest : List Byte) :
    decode (0x10 :: mh :: ml :: th :: tl :: b4 :: b5 :: rest)
      = decodeStart (joinBytes mh ml) (joinBytes th tl) b4 b5 rest := decode_code .fStart _

theorem decode_fFetchSprite (b1 b2 b3 : Byte) (rest : List Byte) :
    decode (0x11 :: b1 :: b2 :: b3 :: rest) = decodeFetchSprite b1 b2 b3 rest := decode_code .fFetchSprite _

theorem decode_qMix (b1 : Byte) (rest : List Byte) : decode (0x23 :: b1 :: rest) = decodeMix b1 rest :=
  decode_code .qMix _

theorem decodeStart_undefined (m t : Addr) (b4 : Byte) {b5 : Byte} (h : 2 ≤ b5.toNat) :
    decodeStart m t b4 b5 rest = .undefined .mustBeZero rest := by
  rw [decodeStart, if_neg]
  rw [highBits_eq_zero_iff rfl]
  omega

/-- Above 39, byte 1 has a must-be-zero bit set or holds an `oam` out of range; from 64 up, byte 3 has one set. -/
theorem decodeFetchSprite_undefined {b1 : Byte} (b2 : Byte) {b3 : Byte} (h : 39 < b1.toNat ∨ 64 ≤ b3.toNat) :
    ∃ why, decodeFetchSprite b1 b2 b3 rest = .undefined why rest := by
  unfold decodeFetchSprite
  split_ifs with hz ho
  · have h1 := (highBits_eq_zero_iff rfl b1).mp hz.1
    have h3 := (highBits_eq_zero_iff rfl b3).mp hz.2
    have h1' : b1.toNat % 64 ≤ 39 := by simpa using ho
    omega
  · exact ⟨_, rfl⟩
  · exact ⟨_, rfl⟩

theorem decodeMix_undefined {b1 : Byte} (h : b1.getLsbD 3 = true) : decodeMix b1 rest = .undefined .mustBeZero rest := by
  rw [decodeMix, if_neg (by simp [h])]

namespace Machine

variable {s : State}

/-- A refused record on an unfaulted machine: the code in the fault register, and the script further on (log 3). -/
theorem step_undefined_fault {why : Reject} (hc : s.cfg.admitted = true) (hf : s.fault = none)
    (hd : decode s.script = .undefined why rest) :
    ∃ rest', step s = .next { s with script := rest', fault := some .undefinedOp } := by
  rw [step_of_undefined hc hd]
  exact ⟨rest, runOp_error (s := s.setScript rest) hf rfl⟩

/-- Settles O2: each of the four records is refused by the decoder, and the step on a refused record raises the fault. -/
theorem undefinedRecordsFault : Obligations.UndefinedRecordsFault := by
  refine ⟨fun s b rest hc hf hs hb => ?_, fun s mh ml th tl b4 b5 rest hc hf hs h5 => ?_,
    fun s b1 b2 b3 rest hc hf hs hb => ?_, fun s b1 rest hc hf hs h3 => ?_⟩
  · have hb' : ∀ o : Op8, b ≠ o.code := by
      rintro o rfl
      exact hb (by cases o <;> decide)
    exact step_undefined_fault hc hf (by rw [hs, decode_reserved hb'])
  · exact step_undefined_fault hc hf (by rw [hs, decode_fStart, decodeStart_undefined _ _ b4 h5])
  · obtain ⟨why, hw⟩ := decodeFetchSprite_undefined (rest := rest) b2 hb
    exact step_undefined_fault hc hf (by rw [hs, decode_fFetchSprite, hw])
  · exact step_undefined_fault hc hf (by rw [hs, decode_qMix, decodeMix_undefined h3])

end Machine

end Sys2Proof
end

section
/-! The words of the other three formats (R68, R69, R82), and every row of the opcode table by its format. -/

namespace Sys2Proof

/-- Every row is a host record, the same under every configuration, or a fetch step, a mode step or a register access. -/
theorem Instr.format_cases (i : Instr) :
    (∃ bytes, encodeBytes i = some bytes ∧ ∀ m, encode m i = .op8 bytes)
      ∨ (∃ st : FetchState, i = st.instr) ∨ (∃ md : Mode, i = md.instr)
      ∨ (∃ (r : RegName) (acc : BusAccess), i = r.instr acc) := by
  cases i with
  | readTileId => exact .inr (.inl ⟨.readTileId, rfl⟩)
  | readTileData0 => exact .inr (.inl ⟨.readTileData0, rfl⟩)
  | readTileData1 => exact .inr (.inl ⟨.readTileData1, rfl⟩)
  | pushToFifo => exact .inr (.inl ⟨.pushToFifo, rfl⟩)
  | readSpriteId => exact .inr (.inl ⟨.readSpriteId, rfl⟩)
  | readSpriteFlags => exact .inr (.inl ⟨.readSpriteFlags, rfl⟩)
  | readSpriteData0 => exact .inr (.inl ⟨.readSpriteData0, rfl⟩)
  | readSpriteData1 => exact .inr (.inl ⟨.readSpriteData1, rfl⟩)
  | mixInFifo => exact .inr (.inl ⟨.mixInFifo, rfl⟩)
  | lineBlank => exact .inr (.inr (.inl ⟨.lineBlank, rfl⟩))
  | frameBlank => exact .inr (.inr (.inl ⟨.frameBlank, rfl⟩))
  | search => exact .inr (.inr (.inl ⟨.search, rfl⟩))
  | transfer => exact .inr (.inr (.inl ⟨.transfer, rfl⟩))
  | lcdc acc => exact .inr (.inr (.inr ⟨.lcdc, acc, rfl⟩))
  | ly acc => exact .inr (.inr (.inr ⟨.ly, acc, rfl⟩))
  | lyc acc => exact .inr (.inr (.inr ⟨.lyc, acc, rfl⟩))
  | nr30 acc => exact .inr (.inr (.inr ⟨.nr30, acc, rfl⟩))
  | nr31 acc => exact .inr (.inr (.inr ⟨.nr31, acc, rfl⟩))
  | nr32 acc => exact .inr (.inr (.inr ⟨.nr32, acc, rfl⟩))
  | nr33 acc => exact .inr (.inr (.inr ⟨.nr33, acc, rfl⟩))
  | nr34 acc => exact .inr (.inr (.inr ⟨.nr34, acc, rfl⟩))
  | waveTable k acc => exact .inr (.inr (.inr ⟨.wave k, acc, rfl⟩))
  | _ => exact .inl ⟨_, rfl, fun _ => rfl⟩

theorem encode_fetchState (m : Config) (st : FetchState) : encode m st.instr = .fst4 st.code := by cases st <;> rfl

theorem encode_mode (m : Config) (md : Mode) : encode m md.instr = .mode2 md.code := by cases md <;> rfl

theorem encode_regName (m : Config) (r : RegName) (acc : BusAccess) : encode m (r.instr acc) = .reg16 (r.addr m) acc := by
  cases r <;> rfl

/-- Settles O6: one round trip for each format; a host record's is the one of `encodeThenDecodeRecord`, with no bytes
after it. -/
theorem encodeThenDecodeRow : Obligations.EncodeThenDecodeRow := by
  intro m i hm hwf
  obtain ⟨bytes, hb, henc⟩ | ⟨st, rfl⟩ | ⟨md, rfl⟩ | ⟨r, acc, rfl⟩ := i.format_cases
  · have hd : decode bytes = .record i [] := by simpa using encodeThenDecodeRecord i bytes [] hwf hb
    simp [henc, decodeCode, hd]
  · simp [encode_fetchState, decodeCode]
  · simp [encode_mode, decodeCode]
  · simp [encode_regName, decodeCode, RegName.ofAddr_addr hm]

/-- Settles O7: each word is evaluated by the decoder. -/
theorem specWordsDecode : Obligations.SpecWordsDecode := by
  unfold Obligations.SpecWordsDecode
  decide

end Sys2Proof
end

section
/-! Row decode (R75), and the fetch step of a reserved state code (R85). -/

namespace Sys2Proof.Machine

theorem decodeRow_toList (lo hi : Byte) (hflip : Bool) :
    (decodeRow lo hi hflip).toList = (List.range 8).map (pixelAt lo hi hflip) := rfl

/-- A column's colour is a two-bit number, the high plane's bit above the low plane's. -/
theorem pixelAt_toNat (lo hi : Byte) (hflip : Bool) (col : Nat) :
    (pixelAt lo hi hflip col).toNat =
      2 * (hi.getLsbD (if hflip = true then col else 7 - col)).toNat
        + (lo.getLsbD (if hflip = true then col else 7 - col)).toNat := by
  have two_bits : ∀ h l : Bool, (BitVec.ofNat 2 (2 * h.toNat + l.toNat)).toNat = 2 * h.toNat + l.toNat := by decide
  exact two_bits _ _

/-- Settles O37: a decoded row lists `pixelAt` of the columns 0 to 7; the rule's two examples are evaluated. -/
theorem rowDecodeCombinesPlanes : Obligations.RowDecodeCombinesPlanes := by
  refine ⟨fun lo hi hflip col hcol => ?_, fun lo hi hflip => rfl, by decide, by decide⟩
  have hget : (decodeRow lo hi hflip).toList.getD col 0 = pixelAt lo hi hflip col := by
    simp [decodeRow_toList, hcol]
  rw [hget, pixelAt_toNat]

/-- A qualifying F_TICK that finds a reserved code (R85, R100). -/
theorem tickFetcher_reserved {s : State} (he : s.f.enabled = true) (hd : 1 ≤ s.f.div) (hst : 9 ≤ s.f.state.toNat) :
    tickFetcher s = .error .badState := by
  have hdiv : ¬ s.f.div + 1 < Config.fetchClockFactor := by simp only [Config.fetchClockFactor]; omega
  simp [tickFetcher, he, hdiv, fetchStep, FetchState.ofCode_reserved hst]

/-- Settles O9: the operation that raises a fault leaves the state before it, divider included, but for the code. -/
theorem reservedFetchStateFaults : Obligations.ReservedFetchStateFaults :=
  fun _ hf he hd hst => runOp_error hf (tickFetcher_reserved he hd hst)

end Sys2Proof.Machine
end

section
/-! The host's accesses through the dispatch table (R82, R87, R137, R138): an address that no register occupies, and the
address of a register's own row. -/

namespace Sys2Proof

/-- The address of a byte of the wave table, with its index as a number. -/
theorem RegName.addr_wave (m : Config) (k : BitVec 4) :
    (RegName.wave k).addr m = m.waveBase + BitVec.ofNat 16 k.toNat := by
  simp [RegName.addr]

/-- R87: an address that is no register's own is answered by no row. -/
theorem RegName.ofAddr_eq_none {m : Config} {a : Addr} (hr : a ∉ m.registerAddrs)
    (hw : ∀ k : BitVec 4, a ≠ (RegName.wave k).addr m) : RegName.ofAddr m a = none := by
  rw [Option.eq_none_iff_forall_ne_some]
  intro r h
  have ha := eq_addr_of_ofAddr h
  cases r with
  | wave k => exact hw k ha
  | _ => simp [Config.registerAddrs, ha, RegName.addr] at hr

namespace Machine

variable {s : State} {a : Addr}

theorem regWrite_unmapped (h : RegName.ofAddr s.cfg a = none) (d : Byte) : regWrite a d s = s := by
  simp [regWrite, h]

theorem regRead_unmapped (h : RegName.ofAddr s.cfg a = none) : regRead a s = busReadUnmapped a s := by
  simp [regRead, h]

/-- Settles O58: no row answers the address, so a write leaves the state and a read is the one of a draw. -/
theorem unmappedAddressesHaveNoEffect : Obligations.UnmappedAddressesHaveNoEffect := by
  intro s a d hf hr hw
  have hnone : RegName.ofAddr s.cfg a = none :=
    RegName.ofAddr_eq_none hr fun k => RegName.addr_wave s.cfg k ▸ hw k.toFin
  constructor
  · rw [exec_regWrite, runOp_pure _ hf, regWrite_unmapped hnone]
  · rw [exec_regRead, runOp_pure _ hf, regRead_unmapped hnone]
    exact ⟨_, _, rfl⟩

/-! ### The REG16 rows -/

theorem regWrite_addr (hc : s.cfg.admitted = true) (r : RegName) (d : Byte) :
    regWrite (r.addr s.cfg) d s = busAccess r (.write d) s := by
  simp [regWrite, RegName.ofAddr_addr hc, busAccess]

theorem regRead_addr (hc : s.cfg.admitted = true) (r : RegName) :
    regRead (r.addr s.cfg) s = busAccess r .read s := by
  simp [regRead, RegName.ofAddr_addr hc, busAccess]

theorem busAccess_fault (r : RegName) (acc : BusAccess) (s : State) : (busAccess r acc s).fault = s.fault := by
  cases acc with
  | read => rfl
  | write d => rw [busAccess, writeReg_frame]; rfl

/-- A register's row and the bus operation at its address are one access, which raises no fault. -/
theorem exec_regName_eq_bus (hf : s.fault = none) (hc : s.cfg.admitted = true) (r : RegName) (d : Byte) :
    (∃ t, exec (r.instr (.write d)) s = .next t ∧ exec (.regWrite (r.addr s.cfg) d) s = .next t ∧ t.fault = none)
      ∧ (∃ t, exec (r.instr .read) s = .next t ∧ exec (.regRead (r.addr s.cfg)) s = .next t ∧ t.fault = none) := by
  refine ⟨⟨busAccess r (.write d) s, ?_, ?_, ?_⟩, ⟨busAccess r .read s, ?_, ?_, ?_⟩⟩
  · rw [exec_regName, runOp_pure _ hf]
  · rw [exec_regWrite, runOp_pure _ hf, regWrite_addr hc]
  · rw [busAccess_fault, hf]
  · rw [exec_regName, runOp_pure _ hf]
  · rw [exec_regRead, runOp_pure _ hf, regRead_addr hc]
  · rw [busAccess_fault, hf]

/-- Settles O59: each alternative is a register's row at the register's own address. -/
theorem registerRowsAreBusAccesses : Obligations.RegisterRowsAreBusAccesses := by
  intro s i a d hf hc hrow
  obtain ⟨r, rfl, rfl⟩ : ∃ r : RegName, i = r.instr ∧ a = r.addr s.cfg := by
    obtain ⟨hi, ha⟩ | ⟨hi, ha⟩ | ⟨hi, ha⟩ | ⟨hi, ha⟩ | ⟨hi, ha⟩ | ⟨hi, ha⟩ | ⟨hi, ha⟩ | ⟨hi, ha⟩ | ⟨k, hi, ha⟩ := hrow
    exacts [⟨.lcdc, hi, ha⟩, ⟨.ly, hi, ha⟩, ⟨.lyc, hi, ha⟩, ⟨.nr30, hi, ha⟩, ⟨.nr31, hi, ha⟩, ⟨.nr32, hi, ha⟩,
      ⟨.nr33, hi, ha⟩, ⟨.nr34, hi, ha⟩, ⟨.wave k, hi, ha.trans (RegName.addr_wave s.cfg k).symm⟩]
  exact exec_regName_eq_bus hf hc r d

end Machine

end Sys2Proof
end

section
/-! The Pixel Queue's operations on their own (R92–R96): Q_CLEAR, Q_PUSH8, Q_POP, Q_MIX and Q_SIZE. -/

namespace Sys2Proof

theorem decode_qPush8 (ph pl : Byte) (rest : List Byte) :
    decode (0x21 :: ph :: pl :: rest) = .record (.qPush8 (unpackLanes (joinBytes ph pl))) rest := decode_code .qPush8 _

theorem decodeMix_ok {b : Byte} (h : b.getLsbD 3 = false) (rest : List Byte) :
    decodeMix b rest = .record (.qMix (b.extractLsb' 4 4) (b.extractLsb' 0 2) (b.getLsbD 2)) rest := if_pos h

namespace Machine

variable {s : State} {q before after : List Colour} {under pixel : Colour} {behind : Bool} {n : Nat}

/-! ### What the operations on a queue answer -/

theorem queuePush8_overflow (c : Lanes) (h : 8 < q.length) : queuePush8 q c = .error .queueOverflow := if_pos h

/-- An offset outside the queue, and any offset in a queue too short to mix into (R95). -/
theorem queueMix_range (p : Colour) (b : Bool) (h : q.length < 8 ∨ q.length ≤ n) : queueMix q n p b = .error .mixRange :=
  if_pos h

theorem mixColour_transparent (under : Colour) (behind : Bool) : mixColour under 0 behind = under := if_pos rfl

theorem mixColour_hidden (pixel : Colour) (h : under ≠ 0) : mixColour under pixel true = under := by
  rw [mixColour, if_pos (show true = true ∧ under ≠ 0 from ⟨rfl, h⟩), ite_self]

theorem mixColour_shown (hp : pixel ≠ 0) (h : behind = false ∨ under = 0) : mixColour under pixel behind = pixel := by
  have hshown : ¬ (behind = true ∧ under ≠ 0) := by
    rintro ⟨hb, hu⟩
    exact h.elim (by simp [hb]) hu
  rw [mixColour, if_neg hp, if_neg hshown]

/-- The element mixed into is the one that stands after `offset` others; the rest of the queue stays (R95). -/
theorem queueMix_append (pixel : Colour) (behind : Bool) (hn : before.length = n)
    (h8 : 8 ≤ (before ++ under :: after).length) :
    queueMix (before ++ under :: after) n pixel behind = .ok (before ++ mixColour under pixel behind :: after) := by
  subst hn
  rw [queueMix_ok pixel behind h8 (by simp)]
  simp [List.getD_eq_getElem?_getD]

/-! ### The rows -/

theorem exec_qClear_next (h : s.fault = none) : exec .qClear s = .next (s.setQ []) := by
  rw [exec_qClear, runOp_pure _ h]

theorem exec_qPush8_next (c : Lanes) (h : s.fault = none) (hq : s.q.length ≤ 8) :
    exec (.qPush8 c) s = .next (s.setQ (s.q ++ c.toList)) := by
  have hbody : withQueue s (queuePush8 s.q c) = .ok (s.setQ (s.q ++ c.toList)) := by rw [queuePush8_ok c hq]; rfl
  rw [exec_qPush8, runOp_ok h hbody]

theorem exec_qPush8_overflow (c : Lanes) (h : s.fault = none) (hq : 8 < s.q.length) :
    exec (.qPush8 c) s = .next (s.setFault (some .queueOverflow)) := by
  have hbody : withQueue s (queuePush8 s.q c) = .error .queueOverflow := by rw [queuePush8_overflow c hq]; rfl
  rw [exec_qPush8, runOp_error h hbody, raiseFault_eq]

theorem exec_qPop_next (h : s.fault = none) :
    exec .qPop s = .next ((s.setQ (popQueue (queuePop s.q))).setResult (popResult (queuePop s.q))) := by
  rw [exec_qPop, runOp_pure _ h]

theorem exec_qMix_next {offset : BitVec 4} (pixel : Colour) (behind : Bool) (h : s.fault = none)
    (hq : s.q = before ++ under :: after) (hn : before.length = offset.toNat) (h8 : 8 ≤ s.q.length) :
    exec (.qMix offset pixel behind) s = .next (s.setQ (before ++ mixColour under pixel behind :: after)) := by
  have hbody : withQueue s (queueMix s.q offset.toNat pixel behind)
      = .ok (s.setQ (before ++ mixColour under pixel behind :: after)) := by
    rw [hq, queueMix_append pixel behind hn (hq ▸ h8)]; rfl
  rw [exec_qMix, runOp_ok h hbody]

theorem exec_qMix_range {offset : BitVec 4} (pixel : Colour) (behind : Bool) (h : s.fault = none)
    (hr : s.q.length < 8 ∨ s.q.length ≤ offset.toNat) :
    exec (.qMix offset pixel behind) s = .next (s.setFault (some .mixRange)) := by
  have hbody : withQueue s (queueMix s.q offset.toNat pixel behind) = .error .mixRange := by
    rw [queueMix_range pixel behind hr]; rfl
  rw [exec_qMix, runOp_error h hbody, raiseFault_eq]

theorem exec_qSize_next (h : s.fault = none) : exec .qSize s = .next (s.setResult (.size s.q.length)) := by
  rw [exec_qSize, runOp_pure _ h]

/-- A batch pushed into a cleared queue is what Q_SIZE then counts (R96). -/
theorem execAll_clear_push8_size (c : Lanes) (h : s.fault = none) :
    execAll [.qClear, .qPush8 c, .qSize] s = .next ((s.setQ c.toList).setResult (.size 8)) := by
  have hpush := exec_qPush8_next (s := s.setQ []) c h (Nat.zero_le 8)
  have hsize := exec_qSize_next (s := s.setQ c.toList) h
  simp only [setQ_q, List.nil_append, setQ_setQ, Lanes.length_toList] at hpush hsize
  simp only [execAll, exec_qClear_next h, hpush, hsize]

/-! ### The obligations -/

/-- Settles O26: what the rule's three outcomes leave at the offset is a case of `mixColour` each, and the element that
stays is put back where it was. -/
theorem queueMixCombinesOnePixel : Obligations.QueueMixCombinesOnePixel := by
  refine ⟨fun b rest hb => ?_, fun s offset pixel behind before after under hf hq hn h8 => ?_,
    fun s offset pixel behind hf hr => exec_qMix_range pixel behind hf hr⟩
  · exact ⟨_, _, _, (decode_qMix b rest).trans (decodeMix_ok hb rest)⟩
  · have hmix := exec_qMix_next pixel behind hf hq hn h8
    refine ⟨fun hp => ?_, fun _ hb hu => ?_, fun hp hshown => ?_⟩
    · rw [hmix, hp, mixColour_transparent, ← hq, setQ_self]
    · rw [hmix, hb, mixColour_hidden pixel hu, ← hq, setQ_self]
    · rw [hmix, mixColour_shown hp hshown]; rfl

/-- Settles O23: the queue after Q_CLEAR and after F_START is the empty one. -/
theorem queueClearEmpties : Obligations.QueueClearEmpties :=
  ⟨fun _ hf => exec_qClear_next hf, fun _ _ _ _ _ _ hf => ⟨_, runOp_pure _ hf, rfl⟩, fun rest => decode_code .qClear rest⟩

/-- Settles O24: a batch at most 8 elements leave room for is appended in push order, and any other overflows. -/
theorem queuePushAppendsBatch : Obligations.QueuePushAppendsBatch :=
  ⟨fun _ _ _ _ _ _ _ _ _ hf hq => exec_qPush8_next _ hf hq, fun _ c hf hq => exec_qPush8_overflow c hf hq,
    fun ph pl rest => ⟨_, decode_qPush8 ph pl rest⟩⟩

/-- Settles O25: the two shapes of the queue; an empty one is the queue Q_POP leaves as well. -/
theorem queuePopReturnsHead : Obligations.QueuePopReturnsHead := by
  refine ⟨fun s c rest hf hq => ?_, fun s hf hq => ?_, fun rest => decode_code .qPop rest⟩
  · rw [exec_qPop_next hf, hq]; rfl
  · rw [exec_qPop_next hf, hq]; rfl

/-- Settles O27: Q_SIZE counts the queue as it stands, and a cleared queue holds one batch after one push. -/
theorem queueSizeCounts : Obligations.QueueSizeCounts :=
  ⟨fun _ hf => exec_qSize_next hf, fun _ c hf => ⟨_, execAll_clear_push8_size c hf, rfl⟩,
    fun rest => decode_code .qSize rest⟩

end Machine

end Sys2Proof
end

section
/-! F_START and F_FETCH_SPRITE (R98, R99): their records, and what each does from every state of the fetcher. -/

namespace Sys2Proof

theorem decodeStart_ok (m t : Addr) (b4 : Byte) {b5 : Byte} (h : b5.toNat < 2) (rest : List Byte) :
    decodeStart m t b4 b5 rest
      = .record (.fStart m t (b4.extractLsb' 3 5) (b4.extractLsb' 0 3) (b5.getLsbD 0)) rest :=
  if_pos ((highBits_eq_zero_iff rfl b5).mpr h)

theorem decodeFetchSprite_ok {b1 b3 : Byte} (h1 : b1.toNat ≤ 39) (h3 : b3.toNat < 64) (b2 : Byte) (rest : List Byte) :
    decodeFetchSprite b1 b2 b3 rest
      = .record (.fFetchSprite (b1.extractLsb' 0 6) b2 (b3.extractLsb' 3 3) (b3.extractLsb' 0 3)) rest := by
  have hmbz : b1.extractLsb' 6 2 = 0 ∧ b3.extractLsb' 6 2 = 0 :=
    ⟨(highBits_eq_zero_iff rfl b1).mpr (by omega), (highBits_eq_zero_iff rfl b3).mpr h3⟩
  have hoam : (b1.extractLsb' 0 6).toNat ≤ 39 := by simp; omega
  rw [decodeFetchSprite, if_pos hmbz, if_pos hoam]

namespace Machine

variable {s : State}

/-- Settles O28: `startFetch` is the update that the statement writes out, and a flag byte below 2 has no must-be-zero
bit set. -/
theorem startBeginsBackgroundFetch : Obligations.StartBeginsBackgroundFetch :=
  ⟨fun _ _ _ _ _ _ hf => runOp_pure _ hf,
    fun _ _ _ _ b4 _ rest h5 => ⟨_, _, _, _, _, (decode_fStart ..).trans (decodeStart_ok _ _ b4 h5 rest)⟩⟩

/-- The disabled test comes first, whatever the state (R151). -/
theorem fetchSprite_disabled (oam : BitVec 6) (x : Byte) (off line : BitVec 3) (he : s.f.enabled = false) :
    fetchSprite oam x off line s = .error .spriteWhileDisabled := if_pos he

theorem fetchSprite_nested (oam : BitVec 6) (x : Byte) (off line : BitVec 3) (he : s.f.enabled = true)
    (h4 : 4 ≤ s.f.state.toNat) (h8 : s.f.state.toNat ≤ 8) : fetchSprite oam x off line s = .error .nestedSprite := by
  simp [fetchSprite, he, inSpritePath, h4, h8]

/-- Settles O29: the record's operands, and the three outcomes of `fetchSprite`. -/
theorem fetchSpritePreempts : Obligations.FetchSpritePreempts := by
  refine ⟨fun b1 b2 b3 rest h1 h3 => ?_, fun s oam x off line hf => ⟨fun he => ?_, fun he h4 h8 => ?_, fun he h3 => ?_⟩⟩
  · exact ⟨_, _, _, _, (decode_fFetchSprite b1 b2 b3 rest).trans (decodeFetchSprite_ok h1 h3 b2 rest)⟩
  · exact runOp_error hf (fetchSprite_disabled oam x off line he)
  · exact runOp_error hf (fetchSprite_nested oam x off line he h4 h8)
  · exact runOp_ok hf (fetchSprite_ok oam x off line he h3)

end Machine

end Sys2Proof
end

section
/-! The nine fetch steps (R101–R109), each on its own. -/

namespace Sys2Proof

/-- The code of a fetch step decodes to its row, under every configuration (R68). -/
theorem decodeCode_fetchState (m : Config) (st : FetchState) : decodeCode m (.fst4 st.code) = some st.instr := by
  simp [decodeCode]

namespace Machine

variable {s : State}

/-! ### The addresses, as numbers mod 2^16 (R77–R81) -/

theorem mapEntryAddr_toNat (f : Fetcher) :
    (mapEntryAddr f).toNat = (f.mapAddr.toNat + f.tileOffset.toNat) % 65536 := by
  rw [mapEntryAddr, BitVec.toNat_add, BitVec.toNat_setWidth_of_le (by decide)]

theorem tileRowAddr_toNat (f : Fetcher) :
    (tileRowAddr f).toNat =
      (((f.dataAddr.toNat : Int) + 16 * tileNumber f.signedId f.tileId + 2 * (f.tileLine.toNat : Int)) % 65536).toNat :=
  BitVec.toNat_ofInt _

/-- Plane 1 stands after plane 0, mod 2^16 again (R103). -/
theorem tileRowAddr_succ_toNat (f : Fetcher) :
    (tileRowAddr f + 1).toNat =
      (((f.dataAddr.toNat : Int) + 16 * tileNumber f.signedId f.tileId + 2 * (f.tileLine.toNat : Int) + 1)
        % 65536).toNat := by
  have hadd : (tileRowAddr f + 1).toNat = ((tileRowAddr f).toNat + 1) % 65536 := BitVec.toNat_add _ _
  rw [hadd, tileRowAddr_toNat]
  omega

theorem oamAddr_toNat (m : Config) (k j : Nat) : (oamAddr m k j).toNat = (m.oamBase.toNat + 4 * k + j) % 65536 :=
  BitVec.toNat_ofNat _ _

theorem spriteRowAddr_toNat (m : Config) (f : Fetcher) :
    (spriteRowAddr m f).toNat = (m.spriteTileBase.toNat + 16 * f.sprId.toNat + 2 * spriteRow f) % 65536 :=
  BitVec.toNat_ofNat _ _

theorem spriteRowAddr_succ_toNat (m : Config) (f : Fetcher) :
    (spriteRowAddr m f + 1).toNat = (m.spriteTileBase.toNat + 16 * f.sprId.toNat + 2 * spriteRow f + 1) % 65536 := by
  have hadd : (spriteRowAddr m f + 1).toNat = ((spriteRowAddr m f).toNat + 1) % 65536 := BitVec.toNat_add _ _
  rw [hadd, spriteRowAddr_toNat, Nat.mod_add_mod]

/-! ### The steps that read one byte -/

/-- Settles O31: the step as the model has it, at the number of its address. -/
theorem readTileIdReadsMap : Obligations.ReadTileIdReadsMap := by
  refine ⟨fun m => decodeCode_fetchState m .readTileId, fun s hf => ?_⟩
  rw [← mapEntryAddr_toNat]
  exact runOp_pure _ hf

/-- Settles O32: `n` is the tile number of R77, so the two addresses are the row's and the one after it. -/
theorem readTileDataReadsPlanes : Obligations.ReadTileDataReadsPlanes := by
  refine ⟨fun m => decodeCode_fetchState m .readTileData0, fun m => decodeCode_fetchState m .readTileData1, ?_⟩
  rintro s n hf rfl
  constructor
  · have h0 := tileRowAddr_toNat s.f
    rw [tileNumber] at h0
    rw [← h0]
    exact runOp_pure _ hf
  · have h1 := tileRowAddr_succ_toNat s.f
    rw [tileNumber] at h1
    rw [← h1]
    exact runOp_pure _ hf

/-- Settles O34: bytes 2 and 3 of the entry, at the numbers of their addresses. -/
theorem readSpriteEntryBytes : Obligations.ReadSpriteEntryBytes := by
  refine ⟨fun m => decodeCode_fetchState m .readSpriteId, fun m => decodeCode_fetchState m .readSpriteFlags,
    fun s hf => ?_⟩
  rw [← oamAddr_toNat, ← oamAddr_toNat]
  exact ⟨runOp_pure _ hf, runOp_pure _ hf⟩

/-- Settles O35: `r` is the sprite row of R80, so the two addresses are the row's and the one after it. -/
theorem readSpriteDataReadsPlanes : Obligations.ReadSpriteDataReadsPlanes := by
  refine ⟨fun m => decodeCode_fetchState m .readSpriteData0, fun m => decodeCode_fetchState m .readSpriteData1,
    fun s r hf hr => ?_⟩
  rw [show r = spriteRow s.f from hr, ← spriteRowAddr_toNat, ← spriteRowAddr_succ_toNat]
  exact ⟨runOp_pure _ hf, runOp_pure _ hf⟩

/-! ### PushToFIFO -/

theorem stepPushToFifo_stall (h : 8 < s.q.length) : stepPushToFifo s = .ok s := if_pos h

theorem tileOffset_succ (off : BitVec 5) : off + 1 = BitVec.ofNat 5 ((off.toNat + 1) % 32) :=
  BitVec.eq_of_toNat_eq (by simp)

theorem stepPushToFifo_push (h : s.q.length ≤ 8) :
    stepPushToFifo s = .ok ((s.setF { s.f with
      tileOffset := BitVec.ofNat 5 ((s.f.tileOffset.toNat + 1) % 32), state := FetchState.readTileId.code }).setQ
        (s.q ++ (backgroundRow s).toList)) := by
  rw [stepPushToFifo, if_neg (Nat.not_lt.mpr h), queuePush8_ok _ h, withQueue, tileOffset_succ]

theorem backgroundRow_on (h : s.ppu.lcdc.getLsbD 0 = true) :
    backgroundRow s = decodeRow s.f.data0 s.f.data1 false := if_pos h

theorem backgroundRow_off (h : s.ppu.lcdc.getLsbD 0 = false) : backgroundRow s = Lanes.zero :=
  if_neg (by simpa [lcdcBackgroundOn] using h)

/-- Settles O33: the stall, and the push of the row that background-on selects. -/
theorem pushToFifoPushesOrStalls : Obligations.PushToFifoPushesOrStalls := by
  refine ⟨fun m => decodeCode_fetchState m .pushToFifo, fun s hf => ⟨fun hq => ?_, fun hq hon => ?_, fun hq hoff => ?_⟩⟩
  · exact runOp_ok hf (stepPushToFifo_stall hq)
  · rw [← backgroundRow_on hon]
    exact runOp_ok hf (stepPushToFifo_push hq)
  · rw [exec_pushToFifo, runOp_ok hf (stepPushToFifo_push hq), backgroundRow_off hoff]
    rfl

/-! ### MixInFIFO -/

/-- What mixing a sprite row into the front of a queue makes of it: the row's lane `i` is mixed into element `i` for
`i` = 0..7, and the other elements and the length stay (R91, R109). -/
def RowMixed (row : List Colour) (behind : Bool) (q q' : List Colour) : Prop :=
  q'.length = q.length ∧ (∀ i, 8 ≤ i → q'.getD i 0 = q.getD i 0)
    ∧ ∀ i, i < 8 → q'.getD i 0 = mixColour (q.getD i 0) (row.getD i 0) behind

theorem queueMixFrom_rowMixed {row q q' : List Colour} {behind : Bool} (hrow : row.length = 8)
    (h : queueMixFrom q 0 row behind = .ok q') : RowMixed row behind q q' := by
  refine ⟨queueMixFrom_length h, fun i hi => ?_, fun i hi => ?_⟩
  · rw [queueMixFrom_getD h, if_neg (by omega)]
  · rw [queueMixFrom_getD h, if_pos (by omega), Nat.sub_zero]

theorem stepMixInFifo_stall (h : s.q.length < 8) : stepMixInFifo s = .ok s := if_pos h

theorem stepMixInFifo_mix (h : 8 ≤ s.q.length) :
    ∃ q', stepMixInFifo s = .ok ((s.setF { s.f with state := s.f.old }).setQ q')
      ∧ RowMixed (decodeRow s.f.sprData0 s.f.sprData1 (spriteHFlip s.f.sprFlags)).toList (spriteBehind s.f.sprFlags)
          s.q q' := by
  obtain ⟨q', hq'⟩ := queueMixFrom_ok (n := 0)
    (ps := (decodeRow s.f.sprData0 s.f.sprData1 (spriteHFlip s.f.sprFlags)).toList) (spriteBehind s.f.sprFlags) h h
  refine ⟨q', ?_, queueMixFrom_rowMixed (Lanes.length_toList _) hq'⟩
  rw [stepMixInFifo, if_neg (Nat.not_lt.mpr h), hq', withQueue]

/-- Settles O36: the stall, and the row mixed in lane by lane. -/
theorem mixInFifoBlendsRow : Obligations.MixInFifoBlendsRow := by
  refine ⟨fun m => decodeCode_fetchState m .mixInFifo, fun s hf hq => runOp_ok hf (stepMixInFifo_stall hq), ?_⟩
  rintro s row hf hq rfl
  obtain ⟨q', hstep, hmixed⟩ := stepMixInFifo_mix hq
  exact ⟨q', runOp_ok hf hstep, hmixed⟩

end Machine

end Sys2Proof
end

section
/-! F_TICK (R97, R100): what one call does, and the faults and transitions it can and cannot make. -/

namespace Sys2Proof.Machine

variable {s t : State} {st : FetchState}

theorem tickFetcher_disabled (he : s.f.enabled = false) : tickFetcher s = .ok s := if_pos he

theorem tickFetcher_count (he : s.f.enabled = true) (hd : s.f.div = 0) :
    tickFetcher s = .ok (s.setF { s.f with div := 1 }) := by
  simp [tickFetcher, he, hd]

/-- A qualifying F_TICK is the fetch step of the named state, with the divider at 0. -/
theorem tickFetcher_step (he : s.f.enabled = true) (hd : 1 ≤ s.f.div) (hst : s.f.state = st.code) :
    tickFetcher s = fetchStepOf st (s.setF { s.f with div := 0 }) := by
  have hdiv : ¬ s.f.div + 1 < Config.fetchClockFactor := by simp only [Config.fetchClockFactor]; omega
  simp [tickFetcher, he, hdiv, fetchStep, hst]

theorem fetchStepOf_fault (h : fetchStepOf st s = .ok t) : t.fault = s.fault := by
  rw [(fetchStepOf_frame h).1]; rfl

/-- Settles O30: the disabled call, the count, and the fetch step of the named state, which raises no fault. -/
theorem fetcherTickDivides : Obligations.FetcherTickDivides := by
  refine ⟨fun rest => decode_code .fTick rest, fun s hf he => runOp_ok hf (tickFetcher_disabled he),
    fun s hf he hd => runOp_ok hf (tickFetcher_count he hd), fun s st hf he hd hst => ?_, reservedFetchStateFaults⟩
  obtain ⟨t, ht⟩ := fetchStepOf_ok st (s.setF { s.f with div := 0 })
  refine ⟨t, runOp_ok hf ((tickFetcher_step he hd hst).trans ht), (fetchStepOf_fault ht).trans hf, ?_⟩
  rw [exec_fetchState]
  exact runOp_ok hf ht

/-- Settles O13: a tick that completes leaves the fault register clear, and the one that does not found a reserved
code. -/
theorem fetcherTickFaultsOnlyOnReservedState : Obligations.FetcherTickFaultsOnlyOnReservedState := by
  intro s hf
  cases hb : tickFetcher s with
  | ok t => exact ⟨t, runOp_ok hf hb, .inl ((tickFetcher_same hb).1.fault.trans hf)⟩
  | error c =>
    obtain ⟨rfl, hst, -⟩ := tickFetcher_error hb
    exact ⟨_, runOp_error hf hb, .inr ⟨raiseFault_fault, hst⟩⟩

/-- Settles O40: only a qualifying tick can change the state, and it takes an edge of its fetch step. -/
theorem fetcherFollowsTransitionGraph : Obligations.FetcherFollowsTransitionGraph := by
  intro s t h
  obtain ⟨-, rfl⟩ | ⟨-, hok⟩ | ⟨-, c, -, rfl⟩ := runOp_cases h
  · exact .inl rfl
  · obtain ⟨-, rfl⟩ | ⟨-, -, rfl⟩ | ⟨-, -, st, hst, hstep⟩ := tickFetcher_cases hok
    · exact .inl rfl
    · exact .inl rfl
    · exact fetchStepOf_state (s := s.setF { s.f with div := 0 }) hstep hst
  · exact .inl rfl

end Sys2Proof.Machine
end

section
/-! Runs of F_TICKs (R110, R111): a fetch step takes two, so a tile takes eight and a sprite row ten. -/

namespace Sys2Proof.Machine

variable {s t : State} {st : FetchState}

/-! ### One fetch step -/

/-- The next two F_TICKs are one fetch step, that of `st`. -/
structure State.AtStep (s : State) (st : FetchState) : Prop where
  fault : s.fault = none
  enabled : s.f.enabled = true
  div : s.f.div = 0
  state : s.f.state = st.code

theorem setF_div_self {n : Nat} (h : s.f.div = n) : s.setF { s.f with div := n } = s := by subst h; rfl

/-- Two F_TICKs at the front of a run (R100): the one counts, the other performs the step. -/
theorem execAll_two_fTicks (h : s.AtStep st) (ht : fetchStepOf st s = .ok t) (n : Nat) :
    execAll (List.replicate (n + 2) .fTick) s = execAll (List.replicate n .fTick) t := by
  have hcount : exec .fTick s = .next (s.setF { s.f with div := 1 }) :=
    runOp_ok h.fault (tickFetcher_count h.enabled h.div)
  have hstep : exec .fTick (s.setF { s.f with div := 1 }) = .next t := by
    have hq := tickFetcher_step (s := s.setF { s.f with div := 1 }) h.enabled (Nat.le_refl 1) h.state
    rw [setF_f, setF_setF, setF_div_self h.div, ht] at hq
    exact runOp_ok h.fault hq
  simp only [List.replicate_succ, execAll, hcount, hstep]

/-! ### A tile -/

/-- The state with a tile read so far, at the fetch step `st`. -/
def State.setTile (s : State) (id d0 d1 : Byte) (st : FetchState) : State :=
  s.setF { s.f with tileId := id, data0 := d0, data1 := d1, state := st.code }

theorem State.AtStep.setTile (h : s.AtStep st) (id d0 d1 : Byte) (st' : FetchState) :
    (s.setTile id d0 d1 st').AtStep st' := ⟨h.fault, h.enabled, h.div, rfl⟩

theorem stepReadTileId_setTile (s : State) :
    stepReadTileId s = s.setTile (s.mem.read ((s.f.mapAddr.toNat + s.f.tileOffset.toNat) % 65536)) s.f.data0 s.f.data1
      .readTileData0 := by
  rw [← mapEntryAddr_toNat]; rfl

theorem stepReadTileData0_setTile (s : State) (id d0 d1 : Byte) (st : FetchState) :
    stepReadTileData0 (s.setTile id d0 d1 st) = s.setTile id
      (s.mem.read (((s.f.dataAddr.toNat : Int) + 16 * tileNumber s.f.signedId id + 2 * (s.f.tileLine.toNat : Int))
        % 65536).toNat) d1 .readTileData1 := by
  rw [stepReadTileData0, memRead_eq, tileRowAddr_toNat]; rfl

theorem stepReadTileData1_setTile (s : State) (id d0 d1 : Byte) (st : FetchState) :
    stepReadTileData1 (s.setTile id d0 d1 st) = s.setTile id d0
      (s.mem.read (((s.f.dataAddr.toNat : Int) + 16 * tileNumber s.f.signedId id + 2 * (s.f.tileLine.toNat : Int) + 1)
        % 65536).toNat) .pushToFifo := by
  rw [stepReadTileData1, memRead_eq, tileRowAddr_succ_toNat]; rfl

/-- The bytes that a tile is read from: its index in the map, and the two planes of its row (R77–R79, R101–R103). -/
structure TileBytes (s : State) (id d0 d1 : Byte) : Prop where
  id_eq : id = s.mem.read ((s.f.mapAddr.toNat + s.f.tileOffset.toNat) % 65536)
  d0_eq : d0 = s.mem.read (((s.f.dataAddr.toNat : Int) + 16 * tileNumber s.f.signedId id
    + 2 * (s.f.tileLine.toNat : Int)) % 65536).toNat
  d1_eq : d1 = s.mem.read (((s.f.dataAddr.toNat : Int) + 16 * tileNumber s.f.signedId id
    + 2 * (s.f.tileLine.toNat : Int) + 1) % 65536).toNat

theorem exists_tileBytes (s : State) : ∃ id d0 d1, TileBytes s id d0 d1 := ⟨_, _, _, rfl, rfl, rfl⟩

/-- The three reading steps of a tile. -/
theorem execAll_readTile {id d0 d1 : Byte} (h : s.AtStep .readTileId) (hb : TileBytes s id d0 d1) (n : Nat) :
    execAll (List.replicate (n + 6) .fTick) s = execAll (List.replicate n .fTick) (s.setTile id d0 d1 .pushToFifo) := by
  have hid := stepReadTileId_setTile s
  have hd0 := stepReadTileData0_setTile s id s.f.data0 s.f.data1 .readTileData0
  have hd1 := stepReadTileData1_setTile s id d0 s.f.data1 .readTileData1
  rw [← hb.id_eq] at hid
  rw [← hb.d0_eq] at hd0
  rw [← hb.d1_eq] at hd1
  rw [execAll_two_fTicks h (congrArg Except.ok hid),
    execAll_two_fTicks (h.setTile _ _ _ .readTileData0) (congrArg Except.ok hd0),
    execAll_two_fTicks (h.setTile _ _ _ .readTileData1) (congrArg Except.ok hd1)]

/-- Settles O38: three reading steps and the push are eight F_TICKs, the stall is two, and F_START is its own equation. -/
theorem fetchCadence : Obligations.FetchCadence := by
  refine ⟨fun s hf he hd hst hq => ?_, fun s hf he hd hst hq => ?_, fun s ma da off line sgn hf => ?_⟩
  · have h : s.AtStep .readTileId := ⟨hf, he, hd, hst⟩
    obtain ⟨id, d0, d1, hb⟩ := exists_tileBytes s
    refine ⟨id, d0, d1, _, (backgroundRow (s.setTile id d0 d1 .pushToFifo)).toList, Lanes.length_toList _, hb.id_eq, rfl,
      hb.d0_eq, hb.d1_eq, fun hon => ?_, fun hoff => ?_, ?_⟩
    · exact congrArg Lanes.toList (backgroundRow_on (s := s.setTile id d0 d1 .pushToFifo) hon)
    · exact congrArg Lanes.toList (backgroundRow_off (s := s.setTile id d0 d1 .pushToFifo) hoff)
    · rw [execAll_readTile h hb 2,
        execAll_two_fTicks (h.setTile _ _ _ .pushToFifo) (stepPushToFifo_push hq) 0, ← h.state]
      rfl
  · exact execAll_two_fTicks (st := .pushToFifo) ⟨hf, he, hd, hst⟩ (stepPushToFifo_stall hq) 0
  · exact ⟨_, runOp_pure _ hf, hf, rfl, rfl, rfl, Nat.zero_le 8⟩

/-! ### A sprite row -/

/-- The state with a sprite's entry and row read so far, at the fetch step `st`. -/
def State.setSprite (s : State) (id flags d0 d1 : Byte) (st : FetchState) : State :=
  s.setF { s.f with sprId := id, sprFlags := flags, sprData0 := d0, sprData1 := d1, state := st.code }

theorem State.AtStep.setSprite (h : s.AtStep st) (id flags d0 d1 : Byte) (st' : FetchState) :
    (s.setSprite id flags d0 d1 st').AtStep st' := ⟨h.fault, h.enabled, h.div, rfl⟩

theorem stepReadSpriteId_setSprite (s : State) :
    stepReadSpriteId s = s.setSprite (s.mem.read ((s.cfg.oamBase.toNat + 4 * s.f.sprOam.toNat + 2) % 65536))
      s.f.sprFlags s.f.sprData0 s.f.sprData1 .readSpriteFlags := by
  rw [← oamAddr_toNat]; rfl

theorem stepReadSpriteFlags_setSprite (s : State) (id flags d0 d1 : Byte) (st : FetchState) :
    stepReadSpriteFlags (s.setSprite id flags d0 d1 st) = s.setSprite id
      (s.mem.read ((s.cfg.oamBase.toNat + 4 * s.f.sprOam.toNat + 3) % 65536)) d0 d1 .readSpriteData0 := by
  rw [stepReadSpriteFlags, memRead_eq, oamAddr_toNat]; rfl

theorem stepReadSpriteData0_setSprite (s : State) (id flags d0 d1 : Byte) (st : FetchState) :
    stepReadSpriteData0 (s.setSprite id flags d0 d1 st) = s.setSprite id flags
      (s.mem.read ((s.cfg.spriteTileBase.toNat + 16 * id.toNat + 2 * spriteRow { s.f with sprFlags := flags }) % 65536))
      d1 .readSpriteData1 := by
  rw [stepReadSpriteData0, memRead_eq, spriteRowAddr_toNat]; rfl

theorem stepReadSpriteData1_setSprite (s : State) (id flags d0 d1 : Byte) (st : FetchState) :
    stepReadSpriteData1 (s.setSprite id flags d0 d1 st) = s.setSprite id flags d0
      (s.mem.read ((s.cfg.spriteTileBase.toNat + 16 * id.toNat + 2 * spriteRow { s.f with sprFlags := flags } + 1)
        % 65536)) .mixInFifo := by
  rw [stepReadSpriteData1, memRead_eq, spriteRowAddr_succ_toNat]; rfl

/-- The bytes that a sprite row is read from: the tile index and the flags in its OAM entry, and the two planes of the
row `r` that the flags select (R80, R81, R105–R108). -/
structure SpriteBytes (s : State) (id flags d0 d1 : Byte) (r : Nat) : Prop where
  id_eq : id = s.mem.read ((s.cfg.oamBase.toNat + 4 * s.f.sprOam.toNat + 2) % 65536)
  flags_eq : flags = s.mem.read ((s.cfg.oamBase.toNat + 4 * s.f.sprOam.toNat + 3) % 65536)
  r_eq : r = spriteRow { s.f with sprFlags := flags }
  d0_eq : d0 = s.mem.read ((s.cfg.spriteTileBase.toNat + 16 * id.toNat + 2 * r) % 65536)
  d1_eq : d1 = s.mem.read ((s.cfg.spriteTileBase.toNat + 16 * id.toNat + 2 * r + 1) % 65536)

theorem exists_spriteBytes (s : State) : ∃ id flags d0 d1 r, SpriteBytes s id flags d0 d1 r :=
  ⟨_, _, _, _, _, rfl, rfl, rfl, rfl, rfl⟩

/-- The four reading steps of a sprite row. -/
theorem execAll_readSprite {id flags d0 d1 : Byte} {r : Nat} (h : s.AtStep .readSpriteId)
    (hb : SpriteBytes s id flags d0 d1 r) (n : Nat) :
    execAll (List.replicate (n + 8) .fTick) s
      = execAll (List.replicate n .fTick) (s.setSprite id flags d0 d1 .mixInFifo) := by
  have hid := stepReadSpriteId_setSprite s
  have hflags := stepReadSpriteFlags_setSprite s id s.f.sprFlags s.f.sprData0 s.f.sprData1 .readSpriteFlags
  have hd0 := stepReadSpriteData0_setSprite s id flags s.f.sprData0 s.f.sprData1 .readSpriteData0
  have hd1 := stepReadSpriteData1_setSprite s id flags d0 s.f.sprData1 .readSpriteData1
  rw [← hb.id_eq] at hid
  rw [← hb.flags_eq] at hflags
  rw [← hb.r_eq, ← hb.d0_eq] at hd0
  rw [← hb.r_eq, ← hb.d1_eq] at hd1
  rw [execAll_two_fTicks h (congrArg Except.ok hid),
    execAll_two_fTicks (h.setSprite _ _ _ _ .readSpriteFlags) (congrArg Except.ok hflags),
    execAll_two_fTicks (h.setSprite _ _ _ _ .readSpriteData0) (congrArg Except.ok hd0),
    execAll_two_fTicks (h.setSprite _ _ _ _ .readSpriteData1) (congrArg Except.ok hd1)]

/-- The state F_FETCH_SPRITE leaves when it preempts the background path (R99). -/
def preempted (oam : BitVec 6) (x : Byte) (off line : BitVec 3) (s : State) : State :=
  s.setF { s.f with
    old := s.f.state, state := FetchState.readSpriteId.code, sprOam := oam, sprX := x, sprOffset := off,
    sprLine := line }

theorem execAll_preempted {oam : BitVec 6} {x : Byte} {off line : BitVec 3} (hf : s.fault = none)
    (he : s.f.enabled = true) (hst : s.f.state.toNat ≤ 3) (is : List Instr) :
    execAll (.fFetchSprite oam x off line :: is) s = execAll is (preempted oam x off line s) := by
  have hpre : exec (.fFetchSprite oam x off line) s = .next (preempted oam x off line s) :=
    runOp_ok hf (fetchSprite_ok oam x off line he hst)
  rw [execAll, hpre]

/-- Settles O39: F_FETCH_SPRITE saves the state, four reading steps keep it, and MixInFIFO restores it with the row mixed
in. -/
theorem preemptAndResume : Obligations.PreemptAndResume := by
  intro s oam x off line hf he hd hst hq
  have h : (preempted oam x off line s).AtStep .readSpriteId := ⟨hf, he, hd, rfl⟩
  obtain ⟨id, flags, d0, d1, r, hb⟩ := exists_spriteBytes (preempted oam x off line s)
  obtain ⟨q', hmix, hmixed⟩ :=
    stepMixInFifo_mix (s := (preempted oam x off line s).setSprite id flags d0 d1 .mixInFifo) hq
  refine ⟨id, flags, d0, d1, r, q', ?_, hb.id_eq, hb.flags_eq, hb.r_eq, hb.d0_eq, hb.d1_eq, hmixed⟩
  rw [execAll_preempted hf he hst, execAll_readSprite h hb 2,
    execAll_two_fTicks (h.setSprite _ _ _ _ .mixInFifo) hmix 0]
  rfl

end Sys2Proof.Machine
end

section
/-! The tick with the display off (R120, R128): it reads LCDC bit 7 in a pop alone, so it does the same to the whole
state, and each `writePixel` it would append is a `blank`. -/

namespace Sys2Proof.Machine

variable {s t : State} {es : List Event}

/-! ### The byte with bit 7 clear -/

theorem getLsbD_clear7 (v : Byte) {n : Nat} (hn : n < 7) : (v &&& 0x7F).getLsbD n = v.getLsbD n := by
  have hmask : ∀ k : Fin 7, (0x7F : Byte).getLsbD k = true := by decide
  rw [BitVec.getLsbD_and, hmask ⟨n, hn⟩, Bool.and_true]

/-- A popped pixel is blank with bit 7 clear, and blanked either way (R120). -/
theorem pixelEvent_clear7 (v : Byte) (c : Colour) : pixelEvent (v &&& 0x7F) c = blanked (pixelEvent v c) := by
  have hoff : pixelEvent (v &&& 0x7F) c = .blank := by simp [pixelEvent, lcdcDisplayOn]
  rw [hoff, pixelEvent]
  split <;> rfl

/-! ### The state with the display off and its new events blanked -/

/-- The state with the display off, its events after those of `before` blanked. -/
def State.blankedAfter (before : List Event) (t : State) : State :=
  { t.displayOff with trace := before ++ (t.trace.drop before.length).map blanked }

theorem blankedAfter_of_trace (h : t.trace = s.trace ++ es) :
    t.blankedAfter s.trace = { t.displayOff with trace := s.trace ++ es.map blanked } := by
  simp [State.blankedAfter, h]

/-- `t` has the events of `s` and after them none that blanking changes. -/
def AppendsNoPixel (s t : State) : Prop := ∃ es, t.trace = s.trace ++ es ∧ es.map blanked = es

theorem AppendsNoPixel.of_trace (h : t.trace = s.trace) : AppendsNoPixel s t := ⟨[], by simpa using h, rfl⟩

theorem displayOff_eq_blankedAfter (h : AppendsNoPixel s t) : t.displayOff = t.blankedAfter s.trace := by
  obtain ⟨es, htrace, hb⟩ := h
  rw [blankedAfter_of_trace htrace, hb, ← htrace]
  rfl

/-- What leaves LCDC keeps bit 7 clear. -/
theorem displayOff_of_lcdc (h : t.ppu.lcdc = s.ppu.lcdc) : t.setLcdc (s.ppu.lcdc &&& 0x7F) = t.displayOff := by
  rw [← h]; rfl

theorem map_displayOff_of_lcdc {r : Except FaultCode State} (h : ∀ t, r = .ok t → t.ppu.lcdc = s.ppu.lcdc) :
    r.map (·.setLcdc (s.ppu.lcdc &&& 0x7F)) = r.map State.displayOff := by
  cases r with
  | error c => rfl
  | ok t => exact congrArg Except.ok (displayOff_of_lcdc (h t rfl))

/-! ### Transfer -/

theorem tickFetcher_trace (h : tickFetcher s = .ok t) : t.trace = s.trace := by
  rw [(tickFetcher_frame h).1]; rfl

theorem spriteTrigger_trace (h : spriteTrigger s = .ok t) : t.trace = s.trace := by
  obtain rfl | ⟨_, _, _, -, -, -, -, -, -, rfl⟩ := spriteTrigger_cases h <;> rfl

theorem tickFetcher_displayOff : tickFetcher s.displayOff = (tickFetcher s).map State.displayOff :=
  (tickFetcher_setLcdc (getLsbD_clear7 _ (by decide : 0 < 7))).trans
    (map_displayOff_of_lcdc fun _ ht => (tickFetcher_same ht).1.lcdc)

theorem spriteTrigger_displayOff : spriteTrigger s.displayOff = (spriteTrigger s).map State.displayOff :=
  (spriteTrigger_setLcdc (getLsbD_clear7 _ (by decide : 1 < 7))).trans
    (map_displayOff_of_lcdc fun _ ht => (spriteTrigger_same ht).lcdc)

theorem popPixel_empty (hq : s.q = []) : popPixel s = s := by
  simp [popPixel, hq, queuePop]

/-- A pop before the 160th counts a column (R120). -/
theorem popPixel_next {c : Colour} {rest : List Colour} (hq : s.q = c :: rest) (hx : (s.ppu.x + 1).toNat ≠ 160) :
    popPixel s = ((s.setQ rest).emit (pixelEvent s.ppu.lcdc c)).setPpu { s.ppu with x := s.ppu.x + 1 } := by
  simp only [popPixel, hq, queuePop]
  exact if_neg hx

/-- The 160th pop ends Transfer (R121). -/
theorem popPixel_last {c : Colour} {rest : List Colour} (hq : s.q = c :: rest) (hx : (s.ppu.x + 1).toNat = 160) :
    popPixel s =
      ((((s.setQ rest).emit (pixelEvent s.ppu.lcdc c)).setF { s.f with enabled := false }).emit .endOfLine).setPpu
        { s.ppu with x := s.ppu.x + 1, mode := .lineBlank } := by
  simp only [popPixel, hq, queuePop]
  exact if_pos hx

/-- The pop is the one place that reads bit 7 (R120). -/
theorem popPixel_displayOff : popPixel s.displayOff = (popPixel s).blankedAfter s.trace := by
  cases hq : s.q with
  | nil =>
    rw [popPixel_empty hq, popPixel_empty (s := s.displayOff) hq]
    exact displayOff_eq_blankedAfter (.of_trace rfl)
  | cons c rest =>
    have hev : pixelEvent s.displayOff.ppu.lcdc c = blanked (pixelEvent s.ppu.lcdc c) := pixelEvent_clear7 _ c
    by_cases hx : (s.ppu.x + 1).toNat = 160
    · rw [popPixel_last hq hx, popPixel_last (s := s.displayOff) hq hx, hev,
        blankedAfter_of_trace (es := [pixelEvent s.ppu.lcdc c, .endOfLine]) (List.append_assoc ..),
        List.map_cons, List.append_cons]
      rfl
    · rw [popPixel_next hq hx, popPixel_next (s := s.displayOff) hq hx, hev,
        blankedAfter_of_trace (es := [pixelEvent s.ppu.lcdc c]) rfl]
      rfl

theorem stepTransfer_displayOff : stepTransfer s.displayOff = (stepTransfer s).map (·.blankedAfter s.trace) := by
  simp only [stepTransfer, tickFetcher_displayOff]
  cases h1 : tickFetcher s with
  | error c => rfl
  | ok s1 =>
    simp only [Except.map, spriteTrigger_displayOff]
    cases h2 : spriteTrigger s1 with
    | error c => rfl
    | ok s2 =>
      have htrace : s2.trace = s.trace := (spriteTrigger_trace h2).trans (tickFetcher_trace h1)
      have hnone : s2.displayOff = s2.blankedAfter s2.trace :=
        displayOff_eq_blankedAfter (.of_trace rfl)
      have hpop : (if popAllowed s2 then popPixel s2.displayOff else s2.displayOff)
          = (if popAllowed s2 then popPixel s2 else s2).blankedAfter s.trace := by
        rw [← htrace, apply_ite (State.blankedAfter s2.trace), ← popPixel_displayOff, ← hnone]
      exact congrArg Except.ok hpop

/-! ### The other modes, whose events are no pixels -/

theorem selectSprite_trace (k : Nat) (s : State) : (selectSprite k s).trace = s.trace := by
  rw [selectSprite_frame]; rfl

theorem stepSearch_noPixel (s : State) : AppendsNoPixel s (stepSearch s) := by
  have henter : ∀ u, (enterTransfer u).trace = u.trace := fun _ => rfl
  refine .of_trace ?_
  simp only [stepSearch]
  split_ifs <;> simp [henter, selectSprite_trace]

theorem stepFrameBlank_noPixel (s : State) : AppendsNoPixel s (stepFrameBlank s) := by
  refine .of_trace ?_
  simp only [stepFrameBlank]
  split_ifs <;> rfl

/-- LineBlank's one event is endOfFrame (R122). -/
theorem stepLineBlank_noPixel (s : State) : AppendsNoPixel s (stepLineBlank s) := by
  simp only [stepLineBlank]
  split_ifs
  · exact ⟨[.endOfFrame], rfl, rfl⟩
  · exact .of_trace rfl
  · exact .of_trace rfl

/-- A mode step that appends no pixel changes with the LCDC byte alone. -/
theorem ok_displayOff {g : State → State} (hg : g s.displayOff = (g s).setLcdc (s.ppu.lcdc &&& 0x7F))
    (hsame : SameOutsideVideo s (g s)) (ht : AppendsNoPixel s (g s)) :
    (.ok (g s.displayOff) : Except FaultCode State) = .ok ((g s).blankedAfter s.trace) := by
  rw [hg, displayOff_of_lcdc hsame.lcdc, displayOff_eq_blankedAfter ht]

theorem modeStep_displayOff (m : Mode) : modeStep m s.displayOff = (modeStep m s).map (·.blankedAfter s.trace) := by
  cases m with
  | lineBlank => exact ok_displayOff stepLineBlank_setLcdc (stepLineBlank_same s) (stepLineBlank_noPixel s)
  | frameBlank => exact ok_displayOff stepFrameBlank_setLcdc (stepFrameBlank_same s) (stepFrameBlank_noPixel s)
  | search =>
    have hmap := getLsbD_clear7 s.ppu.lcdc (by decide : 3 < 7)
    have hdata := getLsbD_clear7 s.ppu.lcdc (by decide : 4 < 7)
    exact ok_displayOff (stepSearch_setLcdc hmap hdata) (stepSearch_same s) (stepSearch_noPixel s)
  | transfer => exact stepTransfer_displayOff

theorem tickPpu_displayOff : tickPpu s.displayOff = (tickPpu s).map (·.blankedAfter s.trace) := by
  unfold tickPpu
  change (if s.ppu.div + 1 < s.cfg.ppuClockFactor then _ else _) = _
  split_ifs
  · exact congrArg Except.ok
      (displayOff_eq_blankedAfter (t := s.setPpu { s.ppu with div := s.ppu.div + 1 }) (.of_trace rfl))
  · exact modeStep_displayOff (s := s.setPpu { s.ppu with div := 0, lineTick := s.ppu.lineTick + 1 }) _

/-- Settles O48: a tick that completes does so with the display off, its pixels blanked; one that is refused or raises a
fault ends so with the display off too, and appends nothing. -/
theorem displayOffChangesOnlyPixels : Obligations.DisplayOffChangesOnlyPixels := by
  intro s t h
  have hmap := tickPpu_displayOff (s := s)
  rw [exec_ppuTick] at h ⊢
  obtain ⟨⟨c, hc⟩, rfl⟩ | ⟨hn, hok⟩ | ⟨hn, c, herr, rfl⟩ := runOp_cases h
  · refine ⟨[], (List.append_nil _).symm, ?_⟩
    rw [List.map_nil, List.append_nil]
    exact runOp_faulted (s := t.displayOff) hc
  · obtain ⟨es, hes⟩ := (tickPpu_same hok).trace
    refine ⟨es, hes, ?_⟩
    rw [← blankedAfter_of_trace hes]
    exact runOp_ok (s := s.displayOff) hn (by rw [hmap, hok]; rfl)
  · refine ⟨[], (List.append_nil _).symm, ?_⟩
    rw [List.map_nil, List.append_nil]
    exact runOp_error (s := s.displayOff) hn (by rw [hmap, herr]; rfl)

end Sys2Proof.Machine
end

section
/-! The mode steps (R112–R123), an equation for each thing a step does. -/

namespace Sys2Proof

/-- The code of a mode decodes to its row, under every configuration (R69). -/
theorem decodeCode_mode (m : Config) (md : Mode) : decodeCode m (.mode2 md.code) = some md.instr := by
  simp [decodeCode]

namespace Machine

variable {s s1 : State}

/-! ### PPU_TICK -/

theorem tickPpu_count (h : s.ppu.div + 1 < s.cfg.ppuClockFactor) :
    tickPpu s = .ok (s.setPpu { s.ppu with div := s.ppu.div + 1 }) := if_pos h

/-- At the factor a PPU_TICK is the step of the mode, the divider at 0 and the step of the line counted (R113). -/
theorem tickPpu_step (h : s.cfg.ppuClockFactor ≤ s.ppu.div + 1) :
    tickPpu s = modeStep s.ppu.mode (s.setPpu { s.ppu with div := 0, lineTick := s.ppu.lineTick + 1 }) :=
  if_neg (Nat.not_lt.mpr h)

/-- Settles O41: the count, and the step of the mode, which under the invariant raises no fault. -/
theorem ppuTickDivides : Obligations.PpuTickDivides := by
  refine ⟨fun rest => decode_code .ppuTick rest, fun s hf hd => runOp_ok hf (tickPpu_count hd),
    fun s hf hd hinv => ?_⟩
  obtain ⟨t, ht⟩ := tickPpu_ok hinv
  refine ⟨t, runOp_ok hf ht, ?_⟩
  rw [exec_mode]
  exact runOp_ok hf ((tickPpu_step hd).symm.trans ht)

/-! ### Search -/

/-- The buffer after slot `k` is examined, the entry's bytes being `y` and `x` (R116). -/
def examined (m : Config) (ly : Byte) (k : Nat) (y x : Byte) (es : List SpriteEntry) : List SpriteEntry :=
  if es.length < m.maxSprites ∧ y.toNat ≤ ly.toNat + 16 ∧ ly.toNat + 16 < y.toNat + 8 then
    es ++ [spriteEntry k ly y x]
  else es

theorem spriteOnLine_iff (ly y : Byte) :
    spriteOnLine ly y = true ↔ y.toNat ≤ ly.toNat + 16 ∧ ly.toNat + 16 < y.toNat + 8 := by
  simp [spriteOnLine]

/-- `select_sprite` reads bytes 0 and 1 of the entry, mod 2^16 (R81, R116). -/
theorem selectSprite_eq {k : Nat} {y x : Byte}
    (hy : y = s.mem.read ((s.cfg.oamBase.toNat + 4 * k) % 65536))
    (hx : x = s.mem.read ((s.cfg.oamBase.toNat + 4 * k + 1) % 65536)) :
    selectSprite k s = s.setPpu { s.ppu with sprites := examined s.cfg s.ppu.ly k y x s.ppu.sprites } := by
  have hy' : s.memRead (oamAddr s.cfg k 0) = y := by rw [memRead_eq, oamAddr_toNat, hy]; rfl
  have hx' : s.memRead (oamAddr s.cfg k 1) = x := by rw [memRead_eq, oamAddr_toNat, hx]
  simp only [selectSprite, hy', hx', spriteOnLine_iff, examined]
  split <;> rfl

/-- The state in which a Search step examines slot `k`: the buffer is cleared at slot 0 (R114). -/
def beforeSlot (k : Nat) (s : State) : State :=
  s.setPpu { s.ppu with sprites := if k = 0 then [] else s.ppu.sprites }

/-- A Search step before the last examines its slot and no more (R114). -/
theorem stepSearch_slot {k : Nat} (hlt : s.ppu.lineTick = k + 1) (hk : k < 39) :
    stepSearch s = selectSprite k (beforeSlot k s) := by
  have hslot : s.ppu.lineTick - 1 = k := by omega
  have hlast : ¬ s.ppu.lineTick = Config.searchSteps := by simp only [Config.searchSteps]; omega
  simp only [stepSearch, hslot, if_neg hlast, beforeSlot]
  split_ifs <;> rfl

/-- Settles O42: the slot's step on the buffer it starts from. -/
theorem searchExaminesOneSlot : Obligations.SearchExaminesOneSlot := by
  rintro s k es y x hf hlt hk rfl hy hx
  rw [exec_search, runOp_pure _ hf, stepSearch_slot hlt hk, selectSprite_eq (s := beforeSlot k s) hy hx]
  rfl

/-- Settles O43: slot 39's step, and `enter_transfer` on the buffer it leaves. -/
theorem searchEntersTransfer : Obligations.SearchEntersTransfer := by
  refine ⟨fun m => decodeCode_mode m .search, fun s y x hf hlt hy hx => ?_⟩
  have hstep : stepSearch s = enterTransfer (selectSprite 39 s) := by
    simp [stepSearch, hlt]
  rw [exec_search, runOp_pure _ hf, hstep, selectSprite_eq hy hx]
  rfl

/-! ### The blank phases -/

theorem stepLineBlank_idle (h : s.ppu.lineTick < s.cfg.lineSteps) : stepLineBlank s = s := if_neg (Nat.not_le.mpr h)

/-- Line 143 is the last visible one (R122). -/
theorem stepLineBlank_lastLine (h : s.cfg.lineSteps ≤ s.ppu.lineTick) (hly : s.ppu.ly.toNat = 143) :
    stepLineBlank s = (s.setPpu { s.ppu with lineTick := 0, ly := 144, mode := .frameBlank }).emit .endOfFrame := by
  have hly' : s.ppu.ly = 143 := BitVec.eq_of_toNat_eq hly
  simp only [stepLineBlank, if_pos h, hly']
  rfl

theorem stepLineBlank_nextLine (h : s.cfg.lineSteps ≤ s.ppu.lineTick) (hly : s.ppu.ly.toNat ≠ 143) :
    stepLineBlank s = s.setPpu { s.ppu with lineTick := 0, ly := s.ppu.ly + 1, mode := .search } := by
  have hne : (s.ppu.ly + 1).toNat ≠ 144 := by bv_omega
  simp only [stepLineBlank, if_pos h]
  exact if_neg hne

/-- Settles O46: the step's three outcomes. -/
theorem lineBlankEndsLine : Obligations.LineBlankEndsLine := by
  refine ⟨fun m => decodeCode_mode m .lineBlank, fun s hf => ?_⟩
  rw [exec_lineBlank, runOp_pure _ hf]
  refine ⟨fun h => ?_, fun h hly => ?_, fun h hly => ?_⟩
  · rw [stepLineBlank_idle h]
  · rw [stepLineBlank_lastLine h hly]; rfl
  · rw [stepLineBlank_nextLine h hly]; rfl

theorem stepFrameBlank_idle (h : s.ppu.lineTick < s.cfg.lineSteps) : stepFrameBlank s = s :=
  if_neg (Nat.not_le.mpr h)

theorem stepFrameBlank_lastLine (h : s.cfg.lineSteps ≤ s.ppu.lineTick) (hly : s.ppu.ly.toNat = 153) :
    stepFrameBlank s = s.setPpu { s.ppu with lineTick := 0, ly := 0, mode := .search } := by
  rw [stepFrameBlank, if_pos h]
  exact if_pos hly

theorem stepFrameBlank_nextLine (h : s.cfg.lineSteps ≤ s.ppu.lineTick) (hly : s.ppu.ly.toNat ≠ 153) :
    stepFrameBlank s = s.setPpu { s.ppu with lineTick := 0, ly := s.ppu.ly + 1 } := by
  rw [stepFrameBlank, if_pos h]
  exact if_neg hly

/-- Settles O47: the step's three outcomes. -/
theorem frameBlankEndsLine : Obligations.FrameBlankEndsLine := by
  refine ⟨fun m => decodeCode_mode m .frameBlank, fun s hf => ?_⟩
  rw [exec_frameBlank, runOp_pure _ hf]
  refine ⟨fun h => ?_, fun h hly => ?_, fun h hly => ?_⟩
  · rw [stepFrameBlank_idle h]
  · rw [stepFrameBlank_lastLine h hly]; rfl
  · rw [stepFrameBlank_nextLine h hly]; rfl

end Machine

end Sys2Proof
end

section
/-! A Transfer step (R117–R121) after the F_TICK it begins with: the pixel emitted when no sprite triggers, and the
sprite it triggers. -/

namespace Sys2Proof.Machine

variable {s s1 s2 : State}

/-! ### The gate and the parts of the step -/

theorem inSpritePath_eq_true {c : BitVec 4} (h4 : 4 ≤ c.toNat) (h8 : c.toNat ≤ 8) : inSpritePath c = true := by
  simp [inSpritePath, h4, h8]

theorem inSpritePath_eq_false {c : BitVec 4} (h : c.toNat ≤ 3) : inSpritePath c = false := by
  simp [inSpritePath, show ¬ 4 ≤ c.toNat by omega]

theorem popAllowed_of_background (h : s.f.state.toNat ≤ 3) (hq : 8 < s.q.length) : popAllowed s = true := by
  simp [popAllowed, inSpritePath_eq_false h, hq]

theorem popAllowed_of_sprite (h : inSpritePath s.f.state = true) : popAllowed s = false := by
  simp [popAllowed, h]

theorem popAllowed_of_low (h : s.q.length ≤ 8) : popAllowed s = false := by
  simp [popAllowed, h]

/-- A Transfer step that the gate lets pop (R118). -/
theorem stepTransfer_pop (h1 : tickFetcher s = .ok s1) (h2 : spriteTrigger s1 = .ok s2) (hp : popAllowed s2 = true) :
    stepTransfer s = .ok (popPixel s2) := by
  simp [stepTransfer, h1, h2, hp]

theorem stepTransfer_noPop (h1 : tickFetcher s = .ok s1) (h2 : spriteTrigger s1 = .ok s2)
    (hp : popAllowed s2 = false) : stepTransfer s = .ok s2 := by
  simp [stepTransfer, h1, h2, hp]

/-- On a fetcher in a defined state F_TICK completes, and the fault register stays clear. -/
theorem exec_fTick_ok (hf : s.fault = none) (hst : s.f.state.toNat ≤ 8) :
    ∃ s1, exec .fTick s = .next s1 ∧ s1.fault = none ∧ tickFetcher s = .ok s1 := by
  obtain ⟨s1, h1⟩ := tickFetcher_ok hst
  exact ⟨s1, runOp_ok hf h1, (tickFetcher_same h1).1.fault.trans hf, h1⟩

/-! ### The sprite trigger -/

theorem triggersAt_iff (x : Byte) (e : SpriteEntry) :
    triggersAt x e = true ↔ e.fetched = false ∧ 1 ≤ e.x.toNat ∧ e.x.toNat ≤ 167 ∧ e.x.toNat - 8 = x.toNat := by
  simp [triggersAt, and_assoc]

theorem triggersAt_eq_false {x : Byte} {e : SpriteEntry}
    (h : ¬ (e.fetched = false ∧ 1 ≤ e.x.toNat ∧ e.x.toNat ≤ 167 ∧ e.x.toNat - 8 = x.toNat)) :
    triggersAt x e = false :=
  Bool.eq_false_of_not_eq_true (mt (triggersAt_iff x e).mp h)

/-- Sprites off, the sprite path, a short queue, or no entry that starts at the column: nothing triggers (R119). -/
theorem spriteTrigger_idle
    (h : lcdcSpriteOn s.ppu.lcdc = false ∨ inSpritePath s.f.state = true ∨ s.q.length < 8
      ∨ ∀ e ∈ s.ppu.sprites, triggersAt s.ppu.x e = false) : spriteTrigger s = .ok s := by
  unfold spriteTrigger
  split_ifs with hg
  · rfl
  · simp only [not_or, Config.queueLow] at hg
    obtain ⟨hon, hpath, hq⟩ := hg
    have hnone : ∀ e ∈ s.ppu.sprites, triggersAt s.ppu.x e = false := by
      obtain h | h | h | h := h
      exacts [absurd h hon, absurd h hpath, absurd h hq, h]
    simp only [takeSprite_none hnone]

/-- `8 − X` is 0 in natural numbers for a sprite that is not cut off (R119). -/
theorem spriteOffsetOf_eq (e : SpriteEntry) : spriteOffsetOf e = BitVec.ofNat 3 (8 - e.x.toNat) := by
  unfold spriteOffsetOf
  split
  · rfl
  · rw [show 8 - e.x.toNat = 0 by omega]; rfl

/-- The state a triggered sprite leaves: its entry marked, the fetcher preempted with its operands (R119). -/
def triggered (before after : List SpriteEntry) (e : SpriteEntry) (s : State) : State :=
  preempted e.oam e.x (spriteOffsetOf e) e.line
    (s.setPpu { s.ppu with sprites := before ++ { e with fetched := true } :: after })

/-- The first entry that starts at the column triggers (R119). -/
theorem spriteTrigger_first {before after : List SpriteEntry} {e : SpriteEntry} (hon : lcdcSpriteOn s.ppu.lcdc = true)
    (he : s.f.enabled = true) (hst : s.f.state.toNat ≤ 3) (hq : 8 ≤ s.q.length)
    (hes : s.ppu.sprites = before ++ e :: after) (hb : ∀ b ∈ before, triggersAt s.ppu.x b = false)
    (ht : triggersAt s.ppu.x e = true) : spriteTrigger s = .ok (triggered before after e s) := by
  have hgate : ¬ (lcdcSpriteOn s.ppu.lcdc = false ∨ inSpritePath s.f.state = true ∨ s.q.length < Config.queueLow) := by
    simp [hon, inSpritePath_eq_false hst, hq]
  simp only [spriteTrigger, if_neg hgate, hes, takeSprite_first before after e hb ht]
  exact fetchSprite_ok (s := s.setPpu _) e.oam e.x (spriteOffsetOf e) e.line he hst

/-- Settles O45: the trigger puts the fetcher on the sprite path, where the gate lets nothing pop. -/
theorem transferTriggersSprite : Obligations.TransferTriggersSprite := by
  intro s hf he hst
  obtain ⟨s1, hexec, hf1, h1⟩ := exec_fTick_ok hf hst
  refine ⟨s1, hexec, hf1, fun before after e hon hst1 hq hes hb hfe hlo hhi hx => ?_⟩
  have he1 : s1.f.enabled = true := (tickFetcher_frame h1).2.1.trans he
  have h2 : spriteTrigger s1 = .ok (triggered before after e s1) :=
    spriteTrigger_first hon he1 hst1 hq hes (fun b hmem => triggersAt_eq_false (hb b hmem))
      ((triggersAt_iff _ _).mpr ⟨hfe, hlo, hhi, hx⟩)
  have hgate : popAllowed (triggered before after e s1) = false := popAllowed_of_sprite rfl
  rw [← spriteOffsetOf_eq]
  exact runOp_ok hf (stepTransfer_noPop h1 h2 hgate)

/-! ### The pixel -/

/-- Settles O44: with no trigger the step is the F_TICK and the gate; the pop that passes is the 160th or not. -/
theorem transferEmitsPixels : Obligations.TransferEmitsPixels := by
  refine ⟨fun m => decodeCode_mode m .transfer, fun s hf he hst => ?_, fun s hf hst => ?_⟩
  · obtain ⟨t, ht⟩ := stepTransfer_ok he hst
    have hsame := stepTransfer_same ht
    exact ⟨t, runOp_ok hf ht, hsame.fault.trans hf, hsame.w, hsame.mem⟩
  · obtain ⟨s1, hexec, hf1, h1⟩ := exec_fTick_ok hf hst
    refine ⟨s1, hexec, hf1, fun hidle hst1 => ?_⟩
    have h2 : spriteTrigger s1 = .ok s1 := by
      refine spriteTrigger_idle ?_
      obtain hoff | hpath | hlow | hes := hidle
      · exact .inl hoff
      · exact .inr (.inl (inSpritePath_eq_true hpath hst1))
      · exact .inr (.inr (.inl hlow))
      · exact .inr (.inr (.inr fun e hmem => triggersAt_eq_false (hes e hmem)))
    refine ⟨fun hgate => ?_, fun c rest hbg hq hrest => ?_⟩
    · have hclosed : popAllowed s1 = false := by
        obtain h4 | hlow := hgate
        · exact popAllowed_of_sprite (inSpritePath_eq_true h4 hst1)
        · exact popAllowed_of_low hlow
      exact runOp_ok hf (stepTransfer_noPop h1 h2 hclosed)
    · have hlen : 8 < s1.q.length := by rw [hq]; exact Nat.lt_succ_of_le hrest
      have hpop := stepTransfer_pop h1 h2 (popAllowed_of_background hbg hlen)
      rw [exec_transfer, runOp_ok hf hpop]
      refine ⟨fun hx => ?_, fun hx => ?_⟩
      · rw [popPixel_next hq (by bv_omega)]; rfl
      · have hx' : s1.ppu.x + 1 = 160 := by bv_omega
        rw [popPixel_last hq (by rw [hx']; rfl), hx', List.append_cons]
        rfl

end Sys2Proof.Machine
end

section
/-! WAVE_TICK (R129–R136): the restart, the silence gate, and the phase that an open gate advances. -/

namespace Sys2Proof.Machine

variable {m : Config} {s t : State} {w : Wave} {n : Nat}

/-! ### The fields of the channel as numbers (R71, R74, R76) -/

theorem volumeShift_eq_getD (nr32 : Byte) : volumeShift nr32 = [4, 0, 1, 2].getD (nr32.toNat / 32 % 4) 0 := by
  have hcode : (nr32.extractLsb' 5 2).toNat = nr32.toNat / 32 % 4 := by
    simp [BitVec.extractLsb'_toNat, Nat.shiftRight_eq_div_pow]
  have hlt : nr32.toNat / 32 % 4 < 4 := Nat.mod_lt _ (by omega)
  rw [volumeShift, hcode]
  interval_cases nr32.toNat / 32 % 4 <;> rfl

/-- The byte of sample `i` is number `i div 2` of the table (R74). -/
theorem waveByte_sample (w : Wave) (i : BitVec 5) :
    waveByte w (i.extractLsb' 1 4) = w.table.toList.getD (i.toNat / 2) 0 := by
  have hk : (i.extractLsb' 1 4).toNat = i.toNat / 2 := by
    rw [BitVec.extractLsb'_toNat, Nat.shiftRight_eq_div_pow]
    omega
  have hlt : i.toNat / 2 < w.table.toList.length := by
    rw [Vector.length_toList]
    omega
  rw [List.getD_eq_getElem _ _ hlt]
  simp [waveByte, hk]

/-- The high nibble belongs to the even sample (R74). -/
theorem waveNibble_toNat (w : Wave) (i : BitVec 5) :
    (waveNibble w i).toNat = if i.toNat % 2 = 0 then (w.table.toList.getD (i.toNat / 2) 0).toNat / 16
      else (w.table.toList.getD (i.toNat / 2) 0).toNat % 16 := by
  have hlow : i.getLsbD 0 = decide (i.toNat % 2 = 1) := Nat.testBit_zero _
  rw [waveNibble, waveByte_sample, hlow]
  obtain heven | hodd := Nat.mod_two_eq_zero_or_one i.toNat
  · rw [heven, if_neg (by decide), if_pos rfl, BitVec.extractLsb'_toNat, Nat.shiftRight_eq_div_pow]
    omega
  · rw [hodd, if_pos (by decide), if_neg (by decide), BitVec.extractLsb'_toNat]
    rfl

theorem sampleValue_toNat (w : Wave) (i : BitVec 5) :
    (sampleValue w i).toNat = (if i.toNat % 2 = 0 then (w.table.toList.getD (i.toNat / 2) 0).toNat / 16
      else (w.table.toList.getD (i.toNat / 2) 0).toNat % 16) / 2 ^ [4, 0, 1, 2].getD (w.nr32.toNat / 32 % 4) 0 := by
  rw [sampleValue, BitVec.toNat_ushiftRight, Nat.shiftRight_eq_div_pow, waveNibble_toNat, volumeShift_eq_getD]

theorem rawFrequency_toNat (w : Wave) : (rawFrequency w).toNat = w.nr34.toNat % 8 * 256 + w.nr33.toNat := by
  rw [rawFrequency, BitVec.toNat_ofNat]
  omega

/-- The threshold from the two frequency registers (R132, R133). -/
theorem wavePeriod_eq (m : Config) (w : Wave) : wavePeriod m w
    = m.masterRate / (m.masterRate / (2048 - (w.nr34.toNat % 8 * 256 + w.nr33.toNat)) * 32) := by
  rw [wavePeriod, waveFrequency, rawFrequency_toNat]

/-! ### The restart -/

/-- The channel as a restart leaves it (R130). -/
def Wave.restarted (w : Wave) (m : Config) : Wave :=
  { w with
    nr34 := w.nr34 &&& 0x7F, enabled := true, idx := 0, sub := 0, div := 0,
    cur := if m.restartReloadsSample = true then sampleValue w 0 else w.cur }

theorem waveRestart_on (h : restartLatch w = true) : waveRestart m w = w.restarted m := if_pos h

theorem restartLatch_restarted (w : Wave) (m : Config) : restartLatch (w.restarted m) = false := by
  simp [restartLatch, Wave.restarted]

theorem waveRestart_restarted (w : Wave) (m : Config) : waveRestart m (w.restarted m) = w.restarted m :=
  waveRestart_off (restartLatch_restarted w m)

/-! ### One WAVE_TICK -/

/-- The state with another channel and the sample `v` emitted and returned. -/
def State.sounding (s : State) (w : Wave) (v : Sample) : State :=
  { s with w := w, trace := s.trace ++ [.sample v], result := .sample v }

/-- No restart is pending and the silence gate is open (R130, R131). -/
structure Wave.Playing (w : Wave) : Prop where
  latch : w.nr34.getLsbD 7 = false
  enabled : w.enabled = true
  on : w.nr30.getLsbD 7 = true

theorem Wave.Playing.gateOpen (h : w.Playing) : gateOpen w = true := by
  simp only [Machine.gateOpen, h.enabled, h.on, Bool.and_self]

theorem gateOpen_eq_false (h : w.enabled = false ∨ w.nr30.getLsbD 7 = false) : gateOpen w = false := by
  obtain h | h := h <;> simp only [gateOpen, h, Bool.false_and, Bool.and_false]

theorem exec_waveTick_sounding (hf : s.fault = none) :
    exec .waveTick s = .next (s.sounding (waveAfter s.cfg s.w) (waveSample s.cfg s.w)) := runOp_pure tickWave hf

/-- With the gate closed the tick is silent and keeps the phase (R131). -/
theorem exec_waveTick_closed (hf : s.fault = none) (hl : restartLatch s.w = false) (hg : gateOpen s.w = false) :
    exec .waveTick s = .next (s.sounding s.w 0) := by
  have hsilent : waveSample s.cfg s.w = 0 := by simp [waveSample, waveRestart_off hl, hg]
  rw [exec_waveTick_sounding hf, waveAfter_closed hl hg, hsilent]

/-- With the gate open the tick advances the phase and returns the current sample (R133, R135). -/
theorem exec_waveTick_playing (hf : s.fault = none) (hp : s.w.Playing) :
    exec .waveTick s = .next (s.sounding (waveAdvance s.cfg s.w) (waveAdvance s.cfg s.w).cur) := by
  have hafter := waveAfter_open (m := s.cfg) hp.latch hp.gateOpen
  have hsample : waveSample s.cfg s.w = (waveAdvance s.cfg s.w).cur := by
    simp [waveSample, waveRestart_off hp.latch, hp.gateOpen, hafter]
  rw [exec_waveTick_sounding hf, hafter, hsample]

/-- A tick that is no output-rate tick only counts (R133). -/
theorem exec_waveTick_count (hf : s.fault = none) (hp : s.w.Playing) (hd : s.w.div + 1 < s.cfg.audioClockFactor) :
    exec .waveTick s = .next (s.sounding { s.w with div := s.w.div + 1 } s.w.cur) := by
  have hadv : waveAdvance s.cfg s.w = { s.w with div := s.w.div + 1 } := if_neg (Nat.not_le.mpr hd)
  rw [exec_waveTick_playing hf hp, hadv]

/-- An output-rate tick below the threshold counts a sub-tick (R133). -/
theorem exec_waveTick_subTick (hf : s.fault = none) (hp : s.w.Playing) (hd : s.cfg.audioClockFactor ≤ s.w.div + 1)
    (hs : s.w.sub + 1 < wavePeriod s.cfg s.w) :
    exec .waveTick s = .next (s.sounding { s.w with div := 0, sub := s.w.sub + 1 } s.w.cur) := by
  have hadv : waveAdvance s.cfg s.w = { s.w with div := 0, sub := s.w.sub + 1 } :=
    (if_pos hd).trans (if_neg (Nat.not_le.mpr hs))
  rw [exec_waveTick_playing hf hp, hadv]

/-- An output-rate tick at the threshold derives the next sample (R133, R134). -/
theorem exec_waveTick_nextSample (hf : s.fault = none) (hp : s.w.Playing) (hd : s.cfg.audioClockFactor ≤ s.w.div + 1)
    (hs : wavePeriod s.cfg s.w ≤ s.w.sub + 1) :
    exec .waveTick s = .next (s.sounding
      { s.w with div := 0, sub := 0, idx := s.w.idx + 1, cur := sampleValue s.w (s.w.idx + 1) }
      (sampleValue s.w (s.w.idx + 1))) := by
  have hadv : waveAdvance s.cfg s.w
      = { s.w with div := 0, sub := 0, idx := s.w.idx + 1, cur := sampleValue s.w (s.w.idx + 1) } :=
    (if_pos hd).trans (if_pos hs)
  rw [exec_waveTick_playing hf hp, hadv]

/-- A tick that finds the latch set is the tick of the restarted channel (R130). -/
theorem exec_waveTick_restarted (hf : s.fault = none) (hl : restartLatch s.w = true) :
    exec .waveTick s = exec .waveTick (s.setW (s.w.restarted s.cfg)) := by
  have hf' : (s.setW (s.w.restarted s.cfg)).fault = none := hf
  rw [exec_waveTick_sounding hf, exec_waveTick_sounding hf']
  simp only [waveAfter, waveSample, waveRestart_on hl, setW_cfg, setW_w, waveRestart_restarted]
  rfl

/-- Settles O52: the restarted channel has its latch clear, and with NR30 bit 7 clear its gate is closed. -/
theorem waveRestartResetsPhase : Obligations.WaveRestartResetsPhase := by
  rintro s w hf hl rfl
  have hrestart := exec_waveTick_restarted hf hl
  refine ⟨restartLatch_restarted s.w s.cfg, hrestart, fun hoff => ?_⟩
  have hclosed : gateOpen (s.w.restarted s.cfg) = false := gateOpen_eq_false (.inr hoff)
  exact hrestart.trans
    (exec_waveTick_closed (s := s.setW (s.w.restarted s.cfg)) hf (restartLatch_restarted s.w s.cfg) hclosed)

/-- Settles O53: a channel that is disabled or off has its gate closed. -/
theorem waveGateSilences : Obligations.WaveGateSilences :=
  fun _ hf hl hoff => exec_waveTick_closed hf hl (gateOpen_eq_false hoff)

/-- Settles O54: the three outcomes of the phase; the sample at the next index is read from the table as a number. -/
theorem waveOutputTickAdvances : Obligations.WaveOutputTickAdvances := by
  intro s raw freq T i b shift hf hl he hon hraw hfreq hT hi hb hshift
  have hp : s.w.Playing := ⟨hl, he, hon⟩
  have hperiod : wavePeriod s.cfg s.w = T := by rw [wavePeriod_eq, hT, hfreq, hraw]
  have hidx : (s.w.idx + 1).toNat = i := (BitVec.toNat_add _ _).trans hi.symm
  have hnext : BitVec.ofNat 5 i = s.w.idx + 1 := by rw [← hidx, BitVec.ofNat_toNat, BitVec.setWidth_eq]
  rw [hnext]
  refine ⟨exec_waveTick_count hf hp, fun hd hsub => exec_waveTick_subTick hf hp hd (hperiod ▸ hsub),
    fun hd hsub => ⟨sampleValue s.w (s.w.idx + 1), ?_, exec_waveTick_nextSample hf hp hd (hperiod ▸ hsub)⟩⟩
  rw [sampleValue_toNat, hidx, hb, hshift]

/-! ### Runs of WAVE_TICKs (R136) -/

theorem execAll_concat {is : List Instr} (i : Instr) (h : execAll is s = .next t) :
    execAll (is ++ [i]) s = exec i t := by
  induction is generalizing s with
  | nil =>
    cases h
    simp only [List.nil_append, execAll]
    cases exec i t <;> rfl
  | cons j is ih =>
    simp only [List.cons_append, execAll] at h ⊢
    cases hj : exec j s with
    | next u => rw [hj] at h; exact ih h
    | fault r | refused r => rw [hj] at h; cases h

/-- The state after `n` sub-ticks that returned the current sample, the last of them leaving `r` as the result. -/
def State.heldSample (s : State) (n : Nat) (r : OpResult) : State :=
  { s with
    w := { s.w with sub := s.w.sub + n }, trace := s.trace ++ List.replicate n (.sample s.w.cur), result := r }

theorem Wave.Playing.heldSample (hp : s.w.Playing) (n : Nat) (r : OpResult) : (s.heldSample n r).w.Playing :=
  ⟨hp.latch, hp.enabled, hp.on⟩

/-- One more sub-tick that holds the sample. -/
theorem heldSample_sounding (hd : s.w.div = 0) (n : Nat) (r : OpResult) :
    (s.heldSample n r).sounding { (s.heldSample n r).w with div := 0, sub := s.w.sub + n + 1 } s.w.cur
      = s.heldSample (n + 1) (.sample s.w.cur) := by
  simp only [State.heldSample, State.sounding, hd, List.replicate_succ', List.append_assoc, Nat.add_assoc]

/-- With `AUDIO_CLOCK_FACTOR` 1 every tick below the threshold is a sub-tick that holds the sample (R135). -/
theorem execAll_heldSample (hf : s.fault = none) (hp : s.w.Playing) (hc : s.cfg.audioClockFactor = 1)
    (hd : s.w.div = 0) (hn : s.w.sub + n < wavePeriod s.cfg s.w) :
    ∃ r, execAll (List.replicate n .waveTick) s = .next (s.heldSample n r) := by
  induction n with
  | zero => exact ⟨s.result, by simp [execAll, State.heldSample]⟩
  | succ n ih =>
    obtain ⟨r, hrun⟩ := ih (Nat.lt_of_succ_lt hn)
    have htick := exec_waveTick_subTick (s := s.heldSample n r) hf (hp.heldSample n r)
      (hc.trans_le (Nat.le_add_left _ _)) hn
    refine ⟨.sample s.w.cur, ?_⟩
    rw [List.replicate_succ', execAll_concat _ hrun, ← heldSample_sounding hd n r]
    exact htick

/-- Settles O55: `T - 1` ticks hold the sample below the threshold, and the next one reaches it. -/
theorem waveSampleLastsItsPeriod : Obligations.WaveSampleLastsItsPeriod := by
  intro s T hf hl he hon hc hd hT
  have hp : s.w.Playing := ⟨hl, he, hon⟩
  have hperiod : wavePeriod s.cfg s.w = T := (wavePeriod_eq _ _).trans hT.symm
  have hheld {n : Nat} (hn : s.w.sub + n < T) := execAll_heldSample hf hp hc hd (hperiod ▸ hn)
  refine ⟨fun n hn => ?_, fun hsub hT1 => ?_⟩
  · obtain ⟨r, hrun⟩ := hheld hn
    exact ⟨_, hrun, rfl, rfl⟩
  · obtain ⟨k, rfl⟩ : ∃ k, T = k + 1 := ⟨T - 1, by omega⟩
    obtain ⟨r, hrun⟩ := hheld (n := k) (by omega)
    have hlast : wavePeriod s.cfg s.w ≤ s.w.sub + k + 1 := by omega
    have hall := (execAll_concat .waveTick hrun).trans (exec_waveTick_nextSample (s := s.heldSample k r) hf
      (hp.heldSample k r) (hc.trans_le (Nat.le_add_left _ _)) hlast)
    rw [← List.replicate_succ'] at hall
    refine ⟨_, sampleValue s.w (s.w.idx + 1), hall, rfl, ?_, rfl⟩
    simp only [State.heldSample, State.sounding, hd]
    rfl

end Sys2Proof.Machine
end

section
/-! What the host's accesses do: MEM_WRITE to `M` (R142), REG_WRITE and REG_READ at a register's own address
(R137–R141). -/

namespace Sys2Proof

theorem decode_memWrite (ah al d : Byte) (rest : List Byte) :
    decode (0x05 :: ah :: al :: d :: rest) = .record (.memWrite (joinBytes ah al) d) rest := decode_code .memWrite _

/-- The address of a byte of the wave table, with its index below 16. -/
theorem RegName.addr_wave_ofFin (m : Config) (k : Fin 16) :
    (RegName.wave (BitVec.ofFin k)).addr m = m.waveBase + BitVec.ofNat 16 k.val := RegName.addr_wave m _

namespace Machine

variable {s : State}

/-- Settles O22: the new memory is the write's; the read rules of `M` say what it holds at each address. -/
theorem memWriteStoresOneByte : Obligations.MemWriteStoresOneByte := by
  refine ⟨decode_memWrite, fun s a d hf hwf => ⟨s.mem.write a.toNat d, ?_, read_write_same hwf, ?_⟩⟩
  · exact runOp_pure (·.memWrite a d) hf
  · exact fun b hb => read_write_other hb

/-! ### NR34 and the wave table -/

theorem latchMask_getLsbD {j : Nat} (h : j < 7) : (0x80 : Byte).getLsbD j = false := by
  revert j; decide

theorem storedMask_getLsbD {j : Nat} (h : j < 7) : (0x7F : Byte).getLsbD j = true := by
  revert j; decide

/-- A write keeps the restart latch or sets it (R137). -/
theorem writeNr34_latch (nr34 d : Byte) : (writeNr34 nr34 d).getLsbD 7 = (nr34.getLsbD 7 || d.getLsbD 7) := by
  simp [writeNr34]

/-- A write stores bits 6:0 (R137). -/
theorem writeNr34_stored (nr34 d : Byte) {j : Nat} (h : j < 7) : (writeNr34 nr34 d).getLsbD j = d.getLsbD j := by
  rw [writeNr34, BitVec.getLsbD_or, BitVec.getLsbD_and, latchMask_getLsbD h, Bool.and_false, Bool.false_or]

/-- A read gives the stored bits 6:0, whatever the draw (R138). -/
theorem readNr34_stored (drawn nr34 : Byte) {j : Nat} (h : j < 7) :
    (readNr34 drawn nr34).getLsbD j = nr34.getLsbD j := by
  rw [readNr34, BitVec.getLsbD_or, BitVec.getLsbD_and, BitVec.getLsbD_and, latchMask_getLsbD h, storedMask_getLsbD h,
    Bool.and_false, Bool.and_true, Bool.false_or]

/-- A write to a byte of the wave table stores it and leaves the other fifteen (R141). -/
theorem setWaveByte_getElem (w : Wave) (d : Byte) (j k : Fin 16) :
    (setWaveByte w (BitVec.ofFin k) d)[j] = if j = k then d else w.table[j] := by
  simp [setWaveByte, Vector.getElem_set, Fin.ext_iff, eq_comm]

/-! ### REG_WRITE and REG_READ at a register's own address -/

theorem exec_regWrite_addr (hf : s.fault = none) (hc : s.cfg.admitted = true) (r : RegName) (d : Byte) :
    exec (.regWrite (r.addr s.cfg) d) s = .next (writeReg r d s) := by
  rw [exec_regWrite, runOp_pure _ hf, regWrite_addr hc, busAccess]

theorem exec_regRead_addr (hf : s.fault = none) (hc : s.cfg.admitted = true) (r : RegName) :
    exec (.regRead (r.addr s.cfg)) s = .next (busRead r (r.addr s.cfg) s) := by
  rw [exec_regRead, runOp_pure _ hf, regRead_addr hc, busAccess]

/-- Only a read of NR34 uses a draw (R138). -/
theorem busRead_noDraw {r : RegName} (hr : r ≠ .nr34) (a : Addr) (s : State) :
    busRead r a s = answerRead a (readReg r s) s := by
  cases r with
  | nr34 => exact absurd rfl hr
  | _ => rfl

/-- Settles O56: each address is its register's own, and the rules of NR34 and of the table say what is stored there. -/
theorem regWriteStores : Obligations.RegWriteStores := by
  intro s d hf hc
  have hwrite := fun r => exec_regWrite_addr hf hc r d
  refine ⟨hwrite .lcdc, hwrite .ly, hwrite .lyc, hwrite .nr30, hwrite .nr31, hwrite .nr32, hwrite .nr33,
    ⟨writeNr34 s.w.nr34 d, hwrite .nr34, writeNr34_latch _ _, fun _ => writeNr34_stored _ _⟩,
    fun k => ⟨setWaveByte s.w (.ofFin k) d, ?_, fun j => setWaveByte_getElem s.w d j k⟩⟩
  rw [← RegName.addr_wave_ofFin]
  exact hwrite (.wave (.ofFin k))

/-- Settles O57: each alternative is a register other than NR34, at its own address, with the byte it reads as. -/
theorem regReadReturns : Obligations.RegReadReturns := by
  intro s a hf hc
  constructor
  · intro v hrow
    obtain ⟨r, hr, rfl, rfl⟩ : ∃ r : RegName, r ≠ .nr34 ∧ a = r.addr s.cfg ∧ v = readReg r s := by
      obtain ⟨ha, hv⟩ | ⟨ha, hv⟩ | ⟨ha, hv⟩ | ⟨ha, hv⟩ | ⟨ha, hv⟩ | ⟨ha, hv⟩ | ⟨ha, hv⟩ | ⟨k, ha, hv⟩ := hrow
      exacts [⟨.lcdc, nofun, ha, hv⟩, ⟨.ly, nofun, ha, hv⟩, ⟨.lyc, nofun, ha, hv⟩, ⟨.nr30, nofun, ha, hv⟩,
        ⟨.nr31, nofun, ha, hv⟩, ⟨.nr32, nofun, ha, hv⟩, ⟨.nr33, nofun, ha, hv⟩,
        ⟨.wave (BitVec.ofFin k), nofun, ha.trans (RegName.addr_wave_ofFin s.cfg k).symm, hv⟩]
    rw [exec_regRead_addr hf hc, busRead_noDraw hr]
    rfl
  · rintro rfl
    exact ⟨_, _, exec_regRead_addr hf hc .nr34, fun _ => readNr34_stored _ _⟩

end Machine

end Sys2Proof
end

section
/-! Faults (R149–R151): every instruction but RESET is an operation whose own effect leaves the fault register, so a code
found there after it is the one it raised, and with no other effect. -/

namespace Sys2Proof.Machine

variable {s t : State} {i : Instr} {body : State → Except FaultCode State}

/-! ### What an operation that completes does to the fault register -/

/-- An operation's body that leaves the fault register whenever it completes. -/
def KeepsFault (body : State → Except FaultCode State) : Prop := ∀ s t, body s = .ok t → t.fault = s.fault

theorem KeepsFault.of_pure {g : State → State} (h : ∀ s, (g s).fault = s.fault) : KeepsFault (fun s => .ok (g s)) := by
  intro s t ht
  cases ht
  exact h s

theorem KeepsFault.completes (hb : KeepsFault body) (hf : s.fault = none) (h : body s = .ok t) :
    runOp s body = .next t ∧ t.fault = none :=
  ⟨runOp_ok hf h, (hb s t h).trans hf⟩

/-- A code that such an operation leaves is one that it raised (R150). -/
theorem KeepsFault.eq_raiseFault {c : FaultCode} (hb : KeepsFault body) (hf : s.fault = none)
    (h : runOp s body = .next t) (hc : t.fault = some c) : t = raiseFault c s := by
  obtain ⟨⟨c', hc'⟩, -⟩ | ⟨-, hok⟩ | ⟨-, c', -, rfl⟩ := runOp_cases h
  · rw [hf] at hc'; cases hc'
  · rw [hb s t hok, hf] at hc; cases hc
  · cases hc; rfl

/-! ### The bodies -/

theorem tickPpu_keepsFault : KeepsFault tickPpu := fun _ _ h => (tickPpu_same h).fault

theorem tickWave_keepsFault : KeepsFault (fun s => .ok (tickWave s)) := .of_pure fun _ => rfl

theorem regWrite_fault (a : Addr) (d : Byte) (s : State) : (regWrite a d s).fault = s.fault := by
  unfold regWrite
  split
  · exact busAccess_fault _ (.write d) s
  · rfl

theorem regWrite_keepsFault (a : Addr) (d : Byte) : KeepsFault (fun s => .ok (regWrite a d s)) :=
  .of_pure (regWrite_fault a d)

theorem regRead_keepsFault (a : Addr) : KeepsFault (fun s => .ok (regRead a s)) := .of_pure fun s => by
  obtain ⟨v, n, heq⟩ := regRead_frame a s
  rw [heq]
  rfl

theorem memWrite_keepsFault (a : Addr) (d : Byte) : KeepsFault (fun s => .ok (s.memWrite a d)) :=
  .of_pure fun _ => rfl

theorem fetchSprite_keepsFault (oam : BitVec 6) (x : Byte) (off line : BitVec 3) :
    KeepsFault (fetchSprite oam x off line) := by
  intro s t h
  obtain ⟨-, -, rfl⟩ := fetchSprite_cases h
  rfl

theorem withQueue_keepsFault (r : State → Except FaultCode (List Colour)) :
    KeepsFault (fun s => withQueue s (r s)) := by
  intro s t h
  cases hr : r s with
  | ok q => simp only [hr, withQueue] at h; cases h; rfl
  | error c => simp only [hr, withQueue] at h; cases h

/-- Every instruction but RESET is an operation that leaves the fault register unless it raises a fault. -/
theorem exec_eq_runOp (hi : i ≠ .reset) : ∃ body, (∀ s, exec i s = runOp s body) ∧ KeepsFault body := by
  obtain ⟨bytes, hb, -⟩ | ⟨st, rfl⟩ | ⟨md, rfl⟩ | ⟨r, acc, rfl⟩ := i.format_cases
  · cases i with
    | reset => exact absurd rfl hi
    | ppuTick => exact ⟨_, exec_ppuTick, tickPpu_keepsFault⟩
    | waveTick => exact ⟨_, exec_waveTick, tickWave_keepsFault⟩
    | regWrite a d => exact ⟨_, exec_regWrite a d, regWrite_keepsFault a d⟩
    | regRead a => exact ⟨_, exec_regRead a, regRead_keepsFault a⟩
    | memWrite a d => exact ⟨_, exec_memWrite a d, memWrite_keepsFault a d⟩
    | fStart ma da off line sgn => exact ⟨_, exec_fStart ma da off line sgn, .of_pure fun _ => rfl⟩
    | fFetchSprite oam x off line =>
      exact ⟨_, exec_fFetchSprite oam x off line, fetchSprite_keepsFault oam x off line⟩
    | fTick => exact ⟨_, exec_fTick, fun _ _ h => (tickFetcher_same h).1.fault⟩
    | qClear => exact ⟨_, exec_qClear, .of_pure fun _ => rfl⟩
    | qPush8 c => exact ⟨_, exec_qPush8 c, withQueue_keepsFault _⟩
    | qPop => exact ⟨_, exec_qPop, .of_pure fun _ => rfl⟩
    | qMix offset pixel behind => exact ⟨_, exec_qMix offset pixel behind, withQueue_keepsFault _⟩
    | qSize => exact ⟨_, exec_qSize, .of_pure fun _ => rfl⟩
    | _ => cases hb
  · exact ⟨_, exec_fetchState st, fun _ _ => fetchStepOf_fault⟩
  · exact ⟨_, exec_mode md, fun _ _ h => (modeStep_same h).fault⟩
  · exact ⟨_, exec_regName r acc, .of_pure (busAccess_fault r acc)⟩

/-! ### The obligations -/

/-- Settles O12: under the invariant the tick has no fault to raise, and it leaves the fault register. -/
theorem ppuTickRaisesNoFault : Obligations.PpuTickRaisesNoFault := by
  intro s hinv hf
  obtain ⟨t, ht⟩ := tickPpu_ok hinv
  exact ⟨t, tickPpu_keepsFault.completes hf ht⟩

/-- Settles O11: RESET leaves the register clear, and any other instruction that leaves a code there raised it. -/
theorem faultHasNoOtherEffect : Obligations.FaultHasNoOtherEffect := by
  intro i s t c hf h hc
  by_cases hi : i = .reset
  · subst hi
    cases h
    cases hc
  · obtain ⟨body, hexec, hb⟩ := exec_eq_runOp hi
    rw [hexec] at h
    exact hb.eq_raiseFault hf h hc

/-- Settles O14: none of the five has a fault to raise; RESET clears the register and the others leave it. -/
theorem hostAccessesRaiseNoFault : Obligations.HostAccessesRaiseNoFault := by
  intro s i a d hf hi
  simp only [List.mem_cons, List.not_mem_nil, or_false] at hi
  obtain rfl | rfl | rfl | rfl | rfl := hi
  · exact ⟨_, tickWave_keepsFault.completes hf rfl⟩
  · exact ⟨_, (regWrite_keepsFault a d).completes hf rfl⟩
  · exact ⟨_, (regRead_keepsFault a).completes hf rfl⟩
  · exact ⟨_, (memWrite_keepsFault a d).completes hf rfl⟩
  · exact ⟨_, rfl, resetBlock_fault⟩

end Sys2Proof.Machine
end

section
/-! Reset (R162–R164): what RESET establishes from every state, what the power-on state meets, and the configuration,
which neither RESET nor any other step changes. -/

namespace Sys2Proof.Machine

/-- Settles O20: the configuration's part of what every step keeps. -/
theorem configurationIsFixed : Obligations.ConfigurationIsFixed := fun _ _ h => (step_keeps_cfg_trace h).1

/-- Settles O15: RESET is `resetBlock`, fault or none; the table is the sixteen draws that follow those already made. -/
theorem resetEstablishesResetValues : Obligations.ResetEstablishesResetValues := fun s =>
  ⟨Wave.drawnTable s.draws, s.draws + 16, rfl⟩

/-- The defaults of R8's parameters meet its constraints. -/
theorem default_admitted : Config.default.admitted = true := by decide

/-- Settles O17: the reset values meet each part of the invariant under the default configuration, the controller being
in Search at step 0 of line 0, and a memory that lists no byte is canonical. -/
theorem powerOnMeetsInvariant : Obligations.PowerOnMeetsInvariant := by
  have hppu : PpuInv Config.default Ppu.reset := by decide
  have hsprites : SpritesInv Config.default Ppu.reset := ⟨Nat.zero_le _, .nil, nofun, nofun⟩
  have hf : FetcherInv Fetcher.reset := by decide
  have haudio : (Wave.reset 0).div < Config.default.audioClockFactor := by decide
  exact ⟨default_admitted, hppu, hsprites, hf, nofun, Nat.zero_le _, haudio, rfl⟩

end Sys2Proof.Machine
end
